-- ==== Sys2Proof/Word.lean ====
section
/-! DEFINITION. The words of the engine: bytes, 16-bit checksums, 32-bit registers, the 64-bit timestamp operand
(00_scope.md R10: all values are unsigned). -/

namespace Sys2Proof

/-- A byte: an 8-bit unsigned value (R10). -/
abbrev Byte := BitVec 8

/-- A `u16`: a checksum or a buffer length (R10). -/
abbrev Half := BitVec 16

/-- A `u32`: the value of a register (R10, R22). -/
abbrev Word := BitVec 32

/-- The 64-bit timestamp operand TS (R30). -/
abbrev DWord := BitVec 64

end Sys2Proof
end

