-- ==== Sys2Proof/Config.lean ====
section
/-! DEFINITION. What is fixed for the machine: the protocol constants (00_scope.md R6, R7), the identification value
(10_state.md R23), the parameters of the engine (00_scope.md R8, R41), and what a byte no one has written reads as. -/

namespace Sys2Proof

/-- The parameters of the engine that the source leaves open (00_scope.md R8): the host address of the window and the
three capacities in bytes. -/
structure Params where
  /-- `BASE`, the host address of the engine's window. -/
  base : Nat
  /-- `IN_CAP`, the bytes in IN_BUF. -/
  inCap : Nat
  /-- `OUT_CAP`, the bytes in OUT_BUF. -/
  outCap : Nat
  /-- `FB_CAP`, the bytes in the framer store. -/
  fbCap : Nat
  deriving DecidableEq, Repr

/-- The spec's defaults (R8). BASE is OPEN there; 0 here is a DESIGN CHOICE (log 2, unsafe). -/
def Params.default : Params := { base := 0, inCap := 2048, outCap := 4096, fbCap := 4096 }

namespace Config

/-- `VERSION` (R6). -/
abbrev version : Byte := 0x01#8
/-- `HDR_SIZE` (R6): version 1, length 1, control 1, timestamp 5. -/
abbrev hdrSize : Nat := 8
/-- `CRC_SIZE` (R6). -/
abbrev crcSize : Nat := 2
/-- `MIN_FRAME` (R6): the header size plus the checksum size. -/
abbrev minFrame : Nat := hdrSize + crcSize
/-- `MAX_PAYLOAD` (R6). -/
abbrev maxPayload : Nat := 255
/-- `DELIM` (R6). -/
abbrev delim : Byte := 0x00#8
/-- `DEVICE_ID_MAX` (R6). -/
abbrev deviceIdMax : Nat := 31
/-- `TIMESTAMP_BITS` (R6). -/
abbrev timestampBits : Nat := 40
/-- `POLY` (R6), without its implicit x^16 term. -/
abbrev crcPoly : Half := 0x755B#16
/-- `INIT` (R6). -/
abbrev crcInit : Half := 0x0000#16
/-- `XOROUT` (R6). -/
abbrev crcXorOut : Half := 0x0000#16
/-- `MAX_FRAME` (R7). -/
abbrev maxFrame : Nat := hdrSize + maxPayload + crcSize
/-- `MAX_STUFFED` (R7, R133). -/
abbrev maxStuffed : Nat := 267
/-- `MAX_UNIT` (R7): a stuffed frame with a delimiter on both sides. -/
abbrev maxUnit : Nat := maxStuffed + 2
/-- The value of the ID register (R23). -/
abbrev idValue : Word := 0x4F500107#32

/-- The size of the window in bytes (20_memory.md R60). -/
abbrev windowSize : Nat := 0x4000
/-- The offset of IN_BUF byte 0 (R60). -/
abbrev inBase : Nat := 0x1000
/-- The offset of OUT_BUF byte 0 (R60). -/
abbrev outBase : Nat := 0x2000

/-- What a byte of a buffer reads as when its memory lists nothing for it.
DESIGN CHOICE (log 3, unsafe): the spec leaves the bytes after reset unspecified (R251). -/
abbrev unwrittenByte : Byte := 0x00#8

end Config

end Sys2Proof
end

