-- ==== Sys2Proof/Syntax.lean ====
section
/-! DEFINITION. The commands of the engine, which are this spec's instructions (00_scope.md R3): one constructor per row
of the opcode map (30_encoding.md R93). No operand is held in the CMD value (R97), so no constructor has a field. -/

namespace Sys2Proof

/-- The thirteen commands (30_encoding.md R93). -/
inductive Instr where
  /-- NOP, 0x00 (44_misc.md R210). -/
  | nop
  /-- CRC_COMPUTE, 0x01 (40_crc.md R120). -/
  | crcCompute
  /-- CRC_VERIFY, 0x02 (40_crc.md R121). -/
  | crcVerify
  /-- COBS_STUFF, 0x10 (41_cobs.md R140). -/
  | cobsStuff
  /-- COBS_STUFF_DELIM, 0x11 (41_cobs.md R141). -/
  | cobsStuffDelim
  /-- COBS_UNSTUFF, 0x12 (41_cobs.md R142). -/
  | cobsUnstuff
  /-- PKT_ENCODE, 0x20 (42_packet.md R160). -/
  | pktEncode
  /-- PKT_BUILD, 0x21 (42_packet.md R159). -/
  | pktBuild
  /-- PKT_DECODE, 0x22 (42_packet.md R168). -/
  | pktDecode
  /-- FB_ADD, 0x30 (43_framer.md R185). -/
  | fbAdd
  /-- FB_EXTRACT, 0x31 (43_framer.md R188). -/
  | fbExtract
  /-- FB_CLEAR, 0x32 (43_framer.md R198). -/
  | fbClear
  /-- FB_PEEK, 0x33 (43_framer.md R199). -/
  | fbPeek
  deriving DecidableEq, Repr

/-- The families that the high nibble of OPCODE names (30_encoding.md R94); they carry no meaning for decode. -/
inductive Family where
  | checksumAndControl
  | stuffing
  | packetCodec
  | framer
  deriving DecidableEq, Repr

/-- The family of a command (R94). -/
def Instr.family : Instr → Family
  | .nop => .checksumAndControl
  | .crcCompute => .checksumAndControl
  | .crcVerify => .checksumAndControl
  | .cobsStuff => .stuffing
  | .cobsStuffDelim => .stuffing
  | .cobsUnstuff => .stuffing
  | .pktEncode => .packetCodec
  | .pktBuild => .packetCodec
  | .pktDecode => .packetCodec
  | .fbAdd => .framer
  | .fbExtract => .framer
  | .fbClear => .framer
  | .fbPeek => .framer

/-- Which commands read `InBytes()` (60_exceptions.md R224 step 2). -/
def Instr.readsInput : Instr → Bool
  | .nop => false
  | .crcCompute => true
  | .crcVerify => true
  | .cobsStuff => true
  | .cobsStuffDelim => true
  | .cobsUnstuff => true
  | .pktEncode => true
  | .pktBuild => true
  | .pktDecode => true
  | .fbAdd => true
  | .fbExtract => false
  | .fbClear => false
  | .fbPeek => false

end Sys2Proof
end

