-- ==== Sys2Proof/WellFormed.lean ====
section
/-! DEFINITION. What is well formed: an instruction (there is nothing to check, since no command has an operand field),
a CMD value (30_encoding.md R91 to R93), and the parameters of the engine (00_scope.md R8). -/

namespace Sys2Proof

/-- Every command is well formed: no operand is held in the CMD value (30_encoding.md R97). -/
def Instr.wellFormed : Instr → Bool
  | .nop => true
  | .crcCompute => true
  | .crcVerify => true
  | .cobsStuff => true
  | .cobsStuffDelim => true
  | .cobsUnstuff => true
  | .pktEncode => true
  | .pktBuild => true
  | .pktDecode => true
  | .fbAdd => true
  | .fbExtract => true
  | .fbClear => true
  | .fbPeek => true

/-- MBZ, bits [31:8] of a CMD value, is zero (30_encoding.md R91). -/
def mbzClear (v : Word) : Bool := v.extractLsb' 8 24 == 0#24

/-- The OPCODE values of the opcode map (30_encoding.md R93). -/
def listedOpcodes : List Byte :=
  [0x00, 0x01, 0x02, 0x10, 0x11, 0x12, 0x20, 0x21, 0x22, 0x30, 0x31, 0x32, 0x33]

/-- OPCODE, bits [7:0] of a CMD value, is in the opcode map (30_encoding.md R93). -/
def opcodeListed (v : Word) : Bool := listedOpcodes.contains (v.extractLsb' 0 8)

/-- A CMD value is a command of the map; every other value is illegal (30_encoding.md R92, R95). -/
def cmdWellFormed (v : Word) : Bool := mbzClear v && opcodeListed v

/-- BASE is aligned to 16 KiB (00_scope.md R8). -/
def Params.baseAligned (p : Params) : Bool := p.base % Config.windowSize == 0

/-- IN_CAP is a multiple of 4 from 272 to 4096 (R8). -/
def Params.inCapLegal (p : Params) : Bool :=
  p.inCap % 4 == 0 && decide (272 ≤ p.inCap) && decide (p.inCap ≤ 4096)

/-- FB_CAP is at least IN_CAP and at least 2 × MAX_UNIT = 538 (R8). -/
def Params.fbCapLegal (p : Params) : Bool :=
  decide (p.inCap ≤ p.fbCap) && decide (2 * Config.maxUnit ≤ p.fbCap)

/-- OUT_CAP is a multiple of 4, at most 4096, at least FB_CAP, and has room for the longest COBS_STUFF_DELIM output (R8). -/
def Params.outCapLegal (p : Params) : Bool :=
  p.outCap % 4 == 0 && decide (p.outCap ≤ 4096) && decide (p.fbCap ≤ p.outCap) &&
    decide (p.inCap + 1 + (p.inCap + 253) / 254 + 1 ≤ p.outCap)

/-- The parameters meet every constraint of 00_scope.md R8. -/
def Params.wf (p : Params) : Bool := p.baseAligned && p.inCapLegal && p.fbCapLegal && p.outCapLegal

end Sys2Proof
end

