-- ==== Sys2Proof/Decode.lean ====
section
/-! DEFINITION. The decoder of CMD values (30_encoding.md R92), total over all 2^32 of them, and after it the encoder, each
written out from the opcode map (R93). -/

namespace Sys2Proof

/-- Why a CMD value is illegal (30_encoding.md R92). -/
inductive DecodeError where
  /-- Bits [31:8] are not zero. -/
  | mbzNotZero
  /-- Bits [7:0] are no OPCODE of the map. -/
  | unlistedOpcode
  deriving DecidableEq, Repr

/-- The MBZ field, bits [31:8] (R91). -/
def mbzField (v : Word) : BitVec 24 := v.extractLsb' 8 24

/-- The OPCODE field, bits [7:0] (R91). -/
def opcodeField (v : Word) : Byte := v.extractLsb' 0 8

/-- The command an OPCODE selects (R93); none for the 243 values outside the map (R95). -/
def opcodeMap (op : Byte) : Option Instr :=
  if op = 0x00#8 then some .nop
  else if op = 0x01#8 then some .crcCompute
  else if op = 0x02#8 then some .crcVerify
  else if op = 0x10#8 then some .cobsStuff
  else if op = 0x11#8 then some .cobsStuffDelim
  else if op = 0x12#8 then some .cobsUnstuff
  else if op = 0x20#8 then some .pktEncode
  else if op = 0x21#8 then some .pktBuild
  else if op = 0x22#8 then some .pktDecode
  else if op = 0x30#8 then some .fbAdd
  else if op = 0x31#8 then some .fbExtract
  else if op = 0x32#8 then some .fbClear
  else if op = 0x33#8 then some .fbPeek
  else none

/-- Decode of the value written to CMD (R92). -/
def decode (v : Word) : Except DecodeError Instr :=
  if mbzField v ≠ 0#24 then .error .mbzNotZero
  else
    match opcodeMap (opcodeField v) with
    | some i => .ok i
    | none => .error .unlistedOpcode

/-- The CMD value of a command: the `match` column of the opcode table (R93). -/
def encode : Instr → Word
  | .nop => 0x00000000#32
  | .crcCompute => 0x00000001#32
  | .crcVerify => 0x00000002#32
  | .cobsStuff => 0x00000010#32
  | .cobsStuffDelim => 0x00000011#32
  | .cobsUnstuff => 0x00000012#32
  | .pktEncode => 0x00000020#32
  | .pktBuild => 0x00000021#32
  | .pktDecode => 0x00000022#32
  | .fbAdd => 0x00000030#32
  | .fbExtract => 0x00000031#32
  | .fbClear => 0x00000032#32
  | .fbPeek => 0x00000033#32

/-- The CMD value whose low `nbits` bits are those of `w` and whose other bits are zero, as spec/opcode_table.json numbers
them: every row is one 32-bit value with bit 0 its least significant bit. -/
def tableWord (nbits w : Nat) : Word := BitVec.ofNat 32 (w % 2 ^ nbits)

/-- The command the decoder reads from an opcode-table word; none where it refuses. -/
def decodeTableWord (nbits w : Nat) : Option Instr :=
  match decode (tableWord nbits w) with
  | .ok i => some i
  | .error _ => none

end Sys2Proof
end

