-- ==== Sys2Proof/Machine/State.lean ====
section
/-! DEFINITION. The state of the engine (10_state.md), the events the host and the platform send it, the reasons a step can
stop, and the state after reset (70_reset_and_hazards.md R250). -/

namespace Sys2Proof.Machine

/-- The bytes of a buffer: pairs of an index and a byte in one canonical form (Memory.wf in Machine/Ops.lean). -/
abbrev Memory := List Host.Cell

/-- The result codes (60_exceptions.md R221). Codes 8 to 15 are never written, so they have no constructor. -/
inductive ResultCode where
  /-- 0: the command completed. -/
  | ok
  /-- 1: FB_EXTRACT found no validated frame. -/
  | none
  /-- 2: illegal CMD value, IN_LEN.LEN > IN_CAP, or ARG0.TYPE = 3. -/
  | errIllegal
  /-- 3: the timestamp is 2^40 or more. -/
  | errTimestamp
  /-- 4: the device identifier is above 31. -/
  | errDevice
  /-- 5: the payload is longer than 255 bytes. -/
  | errLength
  /-- 6: Unstuff failed. -/
  | errUnstuff
  /-- 7: the framer store has no room. -/
  | errOverflow
  deriving DecidableEq, Repr

/-- CTRL (10_state.md R24). Bits [31:2] are reserved: they read as zero and ignore writes, so they are not held. -/
structure Ctrl where
  /-- Bit 0: the checksum's wire byte order, false = low byte first. -/
  crcBe : Bool
  /-- Bit 1: PKT_ENCODE emits a leading delimiter. -/
  encLead : Bool
  deriving DecidableEq, Repr

/-- STATUS (10_state.md R26). Bits [7:4] and [31:9] are reserved: they read as zero, so they are not held. -/
structure Status where
  /-- Bits [3:0]: the result code of the last command. -/
  result : ResultCode
  /-- Bit 8: sticky error. -/
  err : Bool
  deriving DecidableEq, Repr

/-- The registers of the register map (10_state.md R22), in the order of their offsets. -/
inductive Reg where
  | id
  | ctrl
  | cmd
  | status
  | inLen
  | outLen
  | arg0
  | arg1
  | arg2
  | res0
  | res1
  | res2
  | fbLen
  | fbCapr
  | inCapr
  | outCapr
  deriving DecidableEq, Repr

/-- What the outside does to the engine: a bus access of the one host (00_scope.md R12) or the platform's reset event
(70_reset_and_hazards.md R250). -/
inductive HostEvent where
  /-- `MemRead(addr, n)`: read n bytes at a host address. -/
  | read (addr n : Nat)
  /-- `MemWrite(addr, n, v)`: write the low n bytes of v at a host address. -/
  | write (addr n : Nat) (v : Word)
  /-- Reset. The three lists are the bytes, from index 0, that IN_BUF, OUT_BUF and FB_STORE happen to hold after it:
  the rules do not fix them, and a model takes them as an argument of its reset state (R251). -/
  | reset (inBytes outBytes storeBytes : List (BitVec 8))
  deriving DecidableEq, Repr

/-- What the host port answered to the last host access. It is an output of the port, not state of the engine. -/
inductive Response where
  /-- No access since reset. -/
  | none
  /-- A legal read: the value, zero-extended to 32 bits. -/
  | data (v : Word)
  /-- A legal write has completed (for CMD: the command has finished, 20_memory.md R72). -/
  | written
  /-- The error indication of an illegal access (R67); written only by State.afterBusError, for a host that goes on. -/
  | busError
  deriving DecidableEq, Repr

structure State where
  /-- The parameters BASE, IN_CAP, OUT_CAP, FB_CAP (00_scope.md R8). The model's own field: no step changes it. -/
  params : Params
  /-- CTRL (10_state.md R24). -/
  ctrl : Ctrl
  /-- CMD, the last value written (R25). -/
  cmd : Word
  /-- STATUS (R26). -/
  status : Status
  /-- IN_LEN.LEN, bits [15:0] (R27). -/
  inLen : Half
  /-- OUT_LEN.LEN, bits [15:0] (R28). -/
  outLen : Half
  /-- ARG0 (R29). -/
  arg0 : Word
  /-- ARG1 (R30). -/
  arg1 : Word
  /-- ARG2 (R30). -/
  arg2 : Word
  /-- RES0 (R31). -/
  res0 : Word
  /-- RES1 (R31). -/
  res1 : Word
  /-- RES2 (R31). -/
  res2 : Word
  /-- IN_BUF by byte index (R35). -/
  inBuf : Memory
  /-- OUT_BUF by byte index (R36). -/
  outBuf : Memory
  /-- FB_STORE by store index (R37). -/
  fbStore : Memory
  /-- FB_WR, the number of bytes held (R37). -/
  fbWr : Nat
  /-- FB_CUR, the read cursor (R37). -/
  fbCur : Nat
  /-- The coming host accesses and reset events, oldest first (20_memory.md R72). The model's own field: its input. -/
  host : List HostEvent
  /-- The answer to the last host access. The model's own field: its output. -/
  response : Response
  deriving DecidableEq, Repr

/-- The machine right after reset (R42, R250): every register zero, the framer empty, nothing listed in the buffers. The
parameters are the spec's defaults. -/
def State.reset : State where
  params := Params.default
  ctrl := { crcBe := false, encLead := false }
  cmd := 0#32
  status := { result := .ok, err := false }
  inLen := 0#16
  outLen := 0#16
  arg0 := 0#32
  arg1 := 0#32
  arg2 := 0#32
  res0 := 0#32
  res1 := 0#32
  res2 := 0#32
  inBuf := []
  outBuf := []
  fbStore := []
  fbWr := 0
  fbCur := 0
  host := []
  response := .none

/-- Why a step stops: the bus errors of the host port (20_memory.md R67: "A model records a bus error as a fault of the
host access"). Each is raised by a host access only, never by a command, and is safe: the engine's state does not change
(60_exceptions.md R231) and the model stops where the host would be told of the error (log 4). -/
inductive Fault where
  /-- A host address outside BASE to BASE + 0x3FFF (R60), raised by a host read or write; safe. -/
  | outsideWindow (addr : Nat)
  /-- A byte of the access falls on a location "none" (R62), raised by a host read or write; safe. -/
  | unmapped (offset : Nat)
  /-- A register access that is not an aligned 32-bit one (R63), raised by a host read or write; safe. -/
  | registerAccess (offset n : Nat)
  /-- A buffer access of an illegal width or alignment (R64), raised by a host read or write; safe. -/
  | bufferAccess (offset n : Nat)
  deriving DecidableEq, Repr

/-- Why there is no meaning. -/
inductive Refusal where
  /-- The instruction of this mnemonic has no meaning in the model yet; raised by an arm of exec only, and no arm does;
  safe. -/
  | notModelled (mnemonic : String)
  deriving DecidableEq, Repr

end Sys2Proof.Machine
end

