-- ==== Sys2Proof/Machine/Flags.lean ====
section
/-! DEFINITION. The engine's only flags, STATUS.RESULT and STATUS.ERR (10_state.md R40), and the words CTRL and STATUS read
as. -/

namespace Sys2Proof.Machine

/-- The number of a result code (60_exceptions.md R221). -/
def ResultCode.code : ResultCode → BitVec 4
  | .ok => 0#4
  | .none => 1#4
  | .errIllegal => 2#4
  | .errTimestamp => 3#4
  | .errDevice => 4#4
  | .errLength => 5#4
  | .errUnstuff => 6#4
  | .errOverflow => 7#4

/-- Codes 0 and 1 are outcomes; codes 2 to 7 are errors (60_exceptions.md R220). -/
def ResultCode.isError (c : ResultCode) : Bool := decide (2 ≤ c.code.toNat)

/-- `finish(code)` on STATUS (00_scope.md R12, 60_exceptions.md R222): RESULT takes the code; ERR becomes 1 on an error code
and otherwise keeps its value. -/
def Status.finish (st : Status) (c : ResultCode) : Status :=
  { result := c, err := st.err || c.isError }

/-- A host write to STATUS changes only ERR, and only when bit 8 of the value is 1 (10_state.md R26). -/
def Status.hostWrite (st : Status) (v : Word) : Status :=
  { result := st.result, err := st.err && !v.getLsbD 8 }

/-- The value STATUS reads as (R26): RESULT in [3:0], ERR in bit 8, zero elsewhere. -/
def Status.toWord (st : Status) : Word :=
  (0#23 ++ BitVec.ofBool st.err ++ 0#4 ++ st.result.code : BitVec (23 + 1 + 4 + 4))

/-- The value CTRL reads as (R24): CRC_BE in bit 0, ENC_LEAD in bit 1, zero elsewhere. -/
def Ctrl.toWord (c : Ctrl) : Word :=
  (0#30 ++ BitVec.ofBool c.encLead ++ BitVec.ofBool c.crcBe : BitVec (30 + 1 + 1))

/-- What a host write of `v` to CTRL stores (R24, R34): bits 0 and 1. -/
def Ctrl.ofWord (v : Word) : Ctrl := { crcBe := v.getLsbD 0, encLead := v.getLsbD 1 }

end Sys2Proof.Machine
end

