-- ==== Sys2Proof/Machine/Ops.lean ====
section
/-! DEFINITION. The named operations over memory and registers that every command rule uses (00_scope.md R12), and the one
operation that ends a command with an error, `raise`. The engine has no traps: raise saves nothing and transfers control
nowhere, and there is nothing to return from (60_exceptions.md R230). -/

namespace Sys2Proof.Machine

/-- The byte at an index. -/
def Memory.read (m : Memory) (a : Nat) : Byte :=
  match m with
  | [] => Config.unwrittenByte
  | (k, b) :: t => if k = a then b else Memory.read t a

/-- Write one byte, keeping the canonical form: a byte equal to what an unlisted index reads as is not listed. -/
def Memory.write (m : Memory) (a : Nat) (b : Byte) : Memory :=
  match m with
  | [] => if b = Config.unwrittenByte then [] else [(a, b)]
  | (k, c) :: t =>
    if a < k then (if b = Config.unwrittenByte then (k, c) :: t else (a, b) :: (k, c) :: t)
    else if a = k then (if b = Config.unwrittenByte then t else (a, b) :: t)
    else (k, c) :: Memory.write t a b

/-- Write bytes at increasing indices from `a`. -/
def Memory.writeBytes (m : Memory) (a : Nat) (bs : List Byte) : Memory :=
  match bs with
  | [] => m
  | b :: t => Memory.writeBytes (Memory.write m a b) (a + 1) t

/-- The `n` bytes from index `a`: `s[a : a + n]` (00_scope.md R11). -/
def Memory.slice (m : Memory) (a n : Nat) : List Byte :=
  match n with
  | 0 => []
  | k + 1 => Memory.read m a :: Memory.slice m (a + 1) k

/-- The canonical form: indices strictly rising, and no entry equal to what an unlisted index reads as. -/
abbrev Memory.wf (m : Memory) : Prop :=
  m.Pairwise (fun x y => x.1 < y.1) ∧ ∀ c ∈ m, c.2 ≠ Config.unwrittenByte

/-- Every listed index is below the buffer's capacity. -/
abbrev Memory.within (m : Memory) (cap : Nat) : Prop := ∀ c ∈ m, c.1 < cap

/-- `SetOut(b)` (00_scope.md R12): the bytes of OUT_BUF at an index of `b` and OUT_LEN; later bytes keep their values. -/
def State.setOut (s : State) (b : List Byte) : State :=
  { s with outBuf := Memory.writeBytes s.outBuf 0 b, outLen := BitVec.ofNat 16 b.length }

/-- `OUT_LEN <- 0`, the bytes of OUT_BUF as they were (43_framer.md R192). -/
def State.clearOutLen (s : State) : State := { s with outLen := 0#16 }

/-- `SetRes(r0, r1, r2)` (00_scope.md R12). -/
def State.setRes (s : State) (r0 r1 r2 : Word) : State := { s with res0 := r0, res1 := r1, res2 := r2 }

/-- `finish(code)` (00_scope.md R12). -/
def State.finish (s : State) (c : ResultCode) : State := { s with status := s.status.finish c }

/-- `raise E` (00_scope.md R12): `finish(E)` and nothing else. -/
def State.raise (s : State) (e : ResultCode) : State := s.finish e

/-- The only way out of the error state: a host write of STATUS (10_state.md R26, 60_exceptions.md R222). -/
def State.writeStatus (s : State) (v : Word) : State := { s with status := s.status.hostWrite v }

/-- A host that does not stop at the bus error of its next access: the access is over, nothing in the engine has changed,
and the host port has answered with the error indication (20_memory.md R67, 60_exceptions.md R231). -/
def State.afterBusError (s : State) : State := { s with host := s.host.tail, response := .busError }

/-- Reset (70_reset_and_hazards.md R250, R251, R253): every register zero and the framer empty; the buffers hold the bytes
that are the argument of the reset; the parameters and the host's coming accesses are untouched. -/
def State.afterReset (s : State) (inBytes outBytes storeBytes : List Byte) : State :=
  { State.reset with
    params := s.params
    host := s.host
    inBuf := Memory.writeBytes [] 0 (inBytes.take s.params.inCap)
    outBuf := Memory.writeBytes [] 0 (outBytes.take s.params.outCap)
    fbStore := Memory.writeBytes [] 0 (storeBytes.take s.params.fbCap) }

/-- The reset state with its arguments written out: the parameters (00_scope.md R8) and the bytes of the buffers (R251). -/
def State.resetWith (p : Params) (inBytes outBytes storeBytes : List Byte) : State :=
  State.afterReset { State.reset with params := p } inBytes outBytes storeBytes

/-- The next outcome of a sequence of two actions. -/
def andThen {σ τ φ ρ : Type} (o : Host.Outcome σ φ ρ) (f : σ → Host.Outcome τ φ ρ) : Host.Outcome τ φ ρ :=
  match o with
  | .next s => f s
  | .fault r => .fault r
  | .refused r => .refused r

end Sys2Proof.Machine
end

