-- ==== Sys2Proof/Machine/Operands.lean ====
section
/-! DEFINITION. The operands of the commands (30_encoding.md R97): every one comes from a register, from IN_BUF or from the
framer; none is sign-extended, scaled or shifted. -/

namespace Sys2Proof.Machine

/-- The packet types (42_packet.md R150). -/
inductive PacketType where
  /-- Telemetry. -/
  | tm
  /-- Telecommand. -/
  | tc
  /-- The sentinel's type. -/
  | unknown
  deriving DecidableEq, Repr

/-- The code of a type (42_packet.md R151). -/
def PacketType.code : PacketType → BitVec 2
  | .tm => 0#2
  | .tc => 1#2
  | .unknown => 2#2

/-- The type a code names; code 3 is reserved (R151). -/
def packetTypeOf (c : BitVec 2) : Option PacketType :=
  if c = 0#2 then some .tm
  else if c = 1#2 then some .tc
  else if c = 2#2 then some .unknown
  else none

/-- `InBytes() = IN[0 : IN_LEN.LEN]` (10_state.md R35). -/
def State.inBytes (s : State) : List Byte := Memory.slice s.inBuf 0 s.inLen.toNat

/-- The unconsumed region `U = FB_STORE[FB_CUR : FB_WR]` (10_state.md R38). -/
def State.unconsumed (s : State) : List Byte := Memory.slice s.fbStore s.fbCur (s.fbWr - s.fbCur)

/-- EXPECTED, ARG0[15:0] (R29). -/
def State.expected (s : State) : Half := s.arg0.extractLsb' 0 16

/-- TYPE, ARG0[1:0] (R29). -/
def State.typeCode (s : State) : BitVec 2 := s.arg0.extractLsb' 0 2

/-- DEVICE_ID, ARG0[15:8] (R29). -/
def State.deviceId (s : State) : Byte := s.arg0.extractLsb' 8 8

/-- `TS = ARG2 << 32 | ARG1` (R30). -/
def State.ts (s : State) : DWord := (s.arg2 ++ s.arg1 : BitVec (32 + 32))

/-- The value FB_LEN reads as (R32). -/
def State.fbLenWord (s : State) : Word := BitVec.ofNat 32 (s.fbWr - s.fbCur)

/-- IN_LEN.LEN > IN_CAP (60_exceptions.md R224 step 2). -/
def State.inputTooLong (s : State) : Bool := decide (s.params.inCap < s.inLen.toNat)

/-- The first check of every command that reads InBytes (60_exceptions.md R224 step 2), and its input. -/
def State.withInput (s : State) (k : List Byte → State) : State :=
  if s.inputTooLong then s.raise .errIllegal else k s.inBytes

end Sys2Proof.Machine
end

