-- ==== Sys2Proof/Machine/Bus.lean ====
section
/-! DEFINITION. The host window (20_memory.md): the offset map, the legal accesses, what a read returns and what a write
stores. Executing the command that a write to CMD starts is in Machine/Port.lean. -/

namespace Sys2Proof.Machine

/-- What an offset selects (20_memory.md R61). -/
inductive Location where
  /-- The register of the aligned word the offset lies in. -/
  | register (r : Reg)
  /-- IN_BUF byte i. -/
  | inByte (i : Nat)
  /-- OUT_BUF byte i. -/
  | outByte (i : Nat)
  /-- None. -/
  | hole
  deriving DecidableEq, Repr

/-- The offset of a register (10_state.md R22). -/
def Reg.offset : Reg → Nat
  | .id => 0x000
  | .ctrl => 0x004
  | .cmd => 0x008
  | .status => 0x00C
  | .inLen => 0x010
  | .outLen => 0x014
  | .arg0 => 0x018
  | .arg1 => 0x01C
  | .arg2 => 0x020
  | .res0 => 0x024
  | .res1 => 0x028
  | .res2 => 0x02C
  | .fbLen => 0x030
  | .fbCapr => 0x034
  | .inCapr => 0x038
  | .outCapr => 0x03C

/-- The register at a word index of the register space (R22). -/
def regAt : Nat → Reg
  | 0 => .id
  | 1 => .ctrl
  | 2 => .cmd
  | 3 => .status
  | 4 => .inLen
  | 5 => .outLen
  | 6 => .arg0
  | 7 => .arg1
  | 8 => .arg2
  | 9 => .res0
  | 10 => .res1
  | 11 => .res2
  | 12 => .fbLen
  | 13 => .fbCapr
  | 14 => .inCapr
  | _ => .outCapr

/-- The offset map (R61), total over the offsets. -/
def locate (p : Params) (o : Nat) : Location :=
  if o < 0x40 then .register (regAt (o / 4))
  else if Config.inBase ≤ o ∧ o < Config.inBase + p.inCap then .inByte (o - Config.inBase)
  else if Config.outBase ≤ o ∧ o < Config.outBase + p.outCap then .outByte (o - Config.outBase)
  else .hole

/-- An access width and alignment that is legal in buffer space (R64): 8-bit anywhere, 16-bit at even offsets, 32-bit at
multiples of 4. -/
def bufferAccessLegal (o n : Nat) : Bool := n == 1 || (n == 2 && o % 2 == 0) || (n == 4 && o % 4 == 0)

/-- The location a legal access of `n` bytes at an offset acts on, or the bus error (R62, R63, R64, R67). -/
def checkAccess (p : Params) (o n : Nat) : Except Fault Location :=
  match locate p o with
  | .hole => .error (.unmapped o)
  | .register r => if n = 4 ∧ o % 4 = 0 then .ok (.register r) else .error (.registerAccess o n)
  | .inByte i =>
    if bufferAccessLegal o n then (if i + n ≤ p.inCap then .ok (.inByte i) else .error (.unmapped (o + n - 1)))
    else .error (.bufferAccess o n)
  | .outByte i =>
    if bufferAccessLegal o n then (if i + n ≤ p.outCap then .ok (.outByte i) else .error (.unmapped (o + n - 1)))
    else .error (.bufferAccess o n)

/-- The window (R60): an access at a host address, as an access at an offset. -/
def checkAddress (p : Params) (addr n : Nat) : Except Fault Location :=
  if p.base ≤ addr ∧ addr < p.base + Config.windowSize then checkAccess p (addr - p.base) n
  else .error (.outsideWindow addr)

/-- What a register reads as (10_state.md R22 to R33). -/
def State.readReg (s : State) (r : Reg) : Word :=
  match r with
  | .id => Config.idValue
  | .ctrl => s.ctrl.toWord
  | .cmd => s.cmd
  | .status => s.status.toWord
  | .inLen => s.inLen.setWidth 32
  | .outLen => s.outLen.setWidth 32
  | .arg0 => s.arg0
  | .arg1 => s.arg1
  | .arg2 => s.arg2
  | .res0 => s.res0
  | .res1 => s.res1
  | .res2 => s.res2
  | .fbLen => s.fbLenWord
  | .fbCapr => BitVec.ofNat 32 s.params.fbCap
  | .inCapr => BitVec.ofNat 32 s.params.inCap
  | .outCapr => BitVec.ofNat 32 s.params.outCap

/-- What a legal write stores in a register (R22 to R34; 20_memory.md R66): nothing in a read-only one. -/
def State.writeReg (s : State) (r : Reg) (v : Word) : State :=
  match r with
  | .id => s
  | .ctrl => { s with ctrl := Ctrl.ofWord v }
  | .cmd => { s with cmd := v }
  | .status => s.writeStatus v
  | .inLen => { s with inLen := v.setWidth 16 }
  | .outLen => s
  | .arg0 => { s with arg0 := v }
  | .arg1 => { s with arg1 := v }
  | .arg2 => { s with arg2 := v }
  | .res0 => s
  | .res1 => s
  | .res2 => s
  | .fbLen => s
  | .fbCapr => s
  | .inCapr => s
  | .outCapr => s

/-- `Σ byte(k) << 8k` (R65). -/
def wordOfBytes (bs : List Byte) : Word :=
  match bs with
  | [] => 0#32
  | b :: t => b.setWidth 32 ||| (wordOfBytes t <<< 8)

/-- The low `n` bytes of a value, least significant first (R65). -/
def bytesOfWord (n : Nat) (v : Word) : List Byte :=
  match n with
  | 0 => []
  | k + 1 => v.setWidth 8 :: bytesOfWord k (v >>> 8)

/-- The value a legal read of `n` bytes returns (R65, R68), zero-extended. -/
def State.readLocation (s : State) (l : Location) (n : Nat) : Word :=
  match l with
  | .register r => s.readReg r
  | .inByte i => wordOfBytes (Memory.slice s.inBuf i n)
  | .outByte i => wordOfBytes (Memory.slice s.outBuf i n)
  | .hole => 0#32

/-- What a legal write of the low `n` bytes of `v` stores (R65, R66): nothing in OUT_BUF, which is read-only. -/
def State.writeLocation (s : State) (l : Location) (n : Nat) (v : Word) : State :=
  match l with
  | .register r => s.writeReg r v
  | .inByte i => { s with inBuf := Memory.writeBytes s.inBuf i (bytesOfWord n v) }
  | .outByte _ => s
  | .hole => s

end Sys2Proof.Machine
end

