-- ==== Sys2Proof/Machine/Cobs.lean ====
section
/-! DEFINITION. The frame-stuff codec (41_cobs.md). -/

namespace Sys2Proof.Machine

/-- A code byte for a block of `n` data bytes: n + 1 (41_cobs.md R130). -/
def codeByte (n : Nat) : Byte := BitVec.ofNat 8 (n + 1)

/-- The loop of `Stuff` (R130) over the bytes still to come, `blk` being the block collected so far. A block that reaches
254 bytes is closed with 0xFF, and when it closes at the end of the input no final code byte follows. -/
def stuffFrom (blk : List Byte) (d : List Byte) : List Byte :=
  match d with
  | [] => codeByte blk.length :: blk
  | x :: rest =>
    if x = Config.delim then codeByte blk.length :: (blk ++ stuffFrom [] rest)
    else if blk.length + 1 = 254 then
      0xFF#8 :: (blk ++ x :: (if rest = [] then [] else stuffFrom [] rest))
    else stuffFrom (blk ++ [x]) rest

/-- `Stuff(d)` (R130). -/
def stuff (d : List Byte) : List Byte := stuffFrom [] d

/-- The loop of `Unstuff` (R132) over the bytes still to come; none is FAIL. Every pass consumes at least its code byte, so
the number of bytes is fuel enough. -/
def unstuffFrom (fuel : Nat) (s : List Byte) : Option (List Byte) :=
  match fuel, s with
  | _, [] => some []
  | 0, _ :: _ => none
  | f + 1, k :: t =>
    if k = 0x00#8 then none
    else if t.length < k.toNat - 1 then none
    else if Config.delim ∈ t.take (k.toNat - 1) then none
    else
      match unstuffFrom f (t.drop (k.toNat - 1)) with
      | none => none
      | some r =>
        some (t.take (k.toNat - 1) ++
          ((if k ≠ 0xFF#8 ∧ t.drop (k.toNat - 1) ≠ [] then [0x00#8] else []) ++ r))

/-- `Unstuff(s)` (R132): FAIL on empty input, and otherwise the loop. -/
def unstuff (s : List Byte) : Option (List Byte) :=
  if s = [] then none else unstuffFrom s.length s

/-- `Delimit(s) = s ∥ [DELIM]` (R136). -/
def delimit (s : List Byte) : List Byte := s ++ [Config.delim]

/-- `SetOut(r); SetRes(len(r), 0, 0); finish(OK)`, the end of every stuffing command (R140 to R142). -/
def State.outResult (s : State) (r : List Byte) : State :=
  ((s.setOut r).setRes (BitVec.ofNat 32 r.length) 0#32 0#32).finish .ok

/-- COBS_STUFF (41_cobs.md R140). -/
def execCobsStuff (s : State) : Host.Outcome State Fault Refusal :=
  .next (s.withInput fun d => s.outResult (stuff d))

/-- COBS_STUFF_DELIM (41_cobs.md R141). -/
def execCobsStuffDelim (s : State) : Host.Outcome State Fault Refusal :=
  .next (s.withInput fun d => s.outResult (delimit (stuff d)))

/-- The end of COBS_UNSTUFF (R142): ERR_UNSTUFF on FAIL. -/
def State.unstuffResult (s : State) (r : Option (List Byte)) : State :=
  match r with
  | none => s.raise .errUnstuff
  | some b => s.outResult b

/-- COBS_UNSTUFF (41_cobs.md R142). -/
def execCobsUnstuff (s : State) : Host.Outcome State Fault Refusal :=
  .next (s.withInput fun d => s.unstuffResult (unstuff d))

end Sys2Proof.Machine
end

