-- ==== Sys2Proof/Machine/Control.lean ====
section
/-! DEFINITION. The control command (44_misc.md) and the illegal command (30_encoding.md R92). -/

namespace Sys2Proof.Machine

/-- NOP (44_misc.md R210): `finish(OK)`. -/
def execNop (s : State) : Host.Outcome State Fault Refusal := .next (s.finish .ok)

/-- A CMD value that is not in the map (30_encoding.md R92, R95): `raise ERR_ILLEGAL`, with no other effect. -/
def illegalCommand (s : State) : Host.Outcome State Fault Refusal := .next (s.raise .errIllegal)

end Sys2Proof.Machine
end

