-- ==== Sys2Proof/Machine/Crc.lean ====
section
/-! DEFINITION. The checksum engine (40_crc.md). -/

namespace Sys2Proof.Machine

/-- One shift of the register `c` (40_crc.md R111): the inner loop's body. -/
def crcShift (c : Half) : Half :=
  if c.getLsbD 15 then (c <<< 1) ^^^ Config.crcPoly else c <<< 1

/-- `repeat n times` of the shift (R111). -/
def crcShifts (n : Nat) (c : Half) : Half :=
  match n with
  | 0 => c
  | k + 1 => crcShifts k (crcShift c)

/-- One byte of the message (R111): `c XOR (zext16(m[i]) << 8)`, then eight shifts. -/
def crcByte (c : Half) (b : Byte) : Half := crcShifts 8 (c ^^^ (b.setWidth 16 <<< 8))

/-- `Crc16(m)` (R111). -/
def crc16 (m : List Byte) : Half := m.foldl crcByte Config.crcInit ^^^ Config.crcXorOut

/-- `WireCrc(c)`, the two checksum bytes in wire order (R115). -/
def wireCrc (crcBe : Bool) (c : Half) : List Byte :=
  if crcBe then [c.extractLsb' 8 8, c.extractLsb' 0 8] else [c.extractLsb' 0 8, c.extractLsb' 8 8]

/-- `CrcFromWire(b0, b1)` (R116). -/
def crcFromWire (crcBe : Bool) (b0 b1 : Byte) : Half :=
  if crcBe then (b0 ++ b1 : BitVec (8 + 8)) else (b1 ++ b0 : BitVec (8 + 8))

/-- CRC_COMPUTE (40_crc.md R120). -/
def execCrcCompute (s : State) : Host.Outcome State Fault Refusal :=
  .next (s.withInput fun m => (s.setRes ((crc16 m).setWidth 32) 0#32 0#32).finish .ok)

/-- RES0 of CRC_VERIFY (R121): `zext32(c) << 16 | match`. -/
def verifyResult (c expected : Half) : Word :=
  ((c.setWidth 32) <<< 16) ||| (if c = expected then 1#32 else 0#32)

/-- CRC_VERIFY (40_crc.md R121). -/
def execCrcVerify (s : State) : Host.Outcome State Fault Refusal :=
  .next (s.withInput fun m => (s.setRes (verifyResult (crc16 m) s.expected) 0#32 0#32).finish .ok)

end Sys2Proof.Machine
end

