-- ==== Sys2Proof/Machine/Framer.lean ====
section
/-! DEFINITION. The stream framer (43_framer.md). Indices are store indices, as in that file. -/

namespace Sys2Proof.Machine

/-- The smallest index of a delimiter among the `n` store bytes from `a`. -/
def firstDelimFrom (st : Memory) (a n : Nat) : Option Nat :=
  match n with
  | 0 => none
  | k + 1 => if Memory.read st a = Config.delim then some a else firstDelimFrom st (a + 1) k

/-- `FirstDelim(a, b)` (43_framer.md R180). -/
def firstDelim (st : Memory) (a b : Nat) : Option Nat := firstDelimFrom st a (b - a)

/-- The checksum test of `Verify` (R181) on a frame of at least MIN_FRAME bytes. -/
def checksumMatches (crcBe : Bool) (f : List Byte) : Bool :=
  crc16 (f.take (f.length - 2)) = crcFromWire crcBe (f.getD (f.length - 2) 0x00#8) (f.getD (f.length - 1) 0x00#8)

/-- `Verify(span)` (R181): the de-stuffed frame, or none for FAIL. -/
def verify (crcBe : Bool) (span : List Byte) : Option (List Byte) :=
  match unstuff span with
  | none => none
  | some f =>
    if f.length < Config.minFrame then none
    else if checksumMatches crcBe f then some f
    else none

/-- `s[a : b]` of the store. -/
def storeSpan (st : Memory) (a b : Nat) : List Byte := Memory.slice st a (b - a)

/-- What `Extract()` returns (R189): the frame, none for the outcome NONE, and the cursor. -/
structure Extracted where
  frame : Option (List Byte)
  cursor : Nat
  deriving DecidableEq, Repr

/-- State S3a (R193): the leading span, when it is long enough. -/
def leadingFrame (crcBe : Bool) (st : Memory) (cur d1 : Nat) : Option (List Byte) :=
  if Config.minFrame ≤ d1 - cur then verify crcBe (storeSpan st cur d1) else none

/-- State S3c (R195): no second delimiter yet, so the end of the buffer is an implicit boundary. -/
def trailingFrame (crcBe : Bool) (st : Memory) (wr d1 : Nat) : Extracted :=
  if Config.minFrame ≤ wr - (d1 + 1) then
    match verify crcBe (storeSpan st (d1 + 1) wr) with
    | some f => { frame := some f, cursor := wr }
    | none => { frame := none, cursor := d1 }
  else { frame := none, cursor := d1 }

/-- States S2, S3a, S3b, S3c (R189). The only way back to S2 moves the cursor on, so `wr - cur` passes and one more are fuel
enough (R196). -/
def extractFrom (crcBe : Bool) (st : Memory) (wr fuel cur : Nat) : Extracted :=
  match fuel with
  | 0 => { frame := none, cursor := cur }
  | k + 1 =>
    match firstDelim st cur wr with
    | none => { frame := none, cursor := wr }
    | some d1 =>
      match leadingFrame crcBe st cur d1 with
      | some f => { frame := some f, cursor := d1 + 1 }
      | none =>
        match firstDelim st (d1 + 1) wr with
        | some d2 =>
          match verify crcBe (storeSpan st (d1 + 1) d2) with
          | some f => { frame := some f, cursor := d2 + 1 }
          | none => extractFrom crcBe st wr k (d1 + 1)
        | none => trailingFrame crcBe st wr d1

/-- `Extract()` (R189): S1, then the loop. -/
def State.extract (s : State) : Extracted :=
  if s.fbWr - s.fbCur < Config.minFrame then { frame := none, cursor := s.fbCur }
  else extractFrom s.ctrl.crcBe s.fbStore s.fbWr (s.fbWr - s.fbCur + 1) s.fbCur

/-- Append bytes to the store after moving U to its start (R185, R186). -/
def State.appendToStore (s : State) (m : List Byte) : State :=
  { s with
    fbStore := Memory.writeBytes (Memory.writeBytes s.fbStore 0 s.unconsumed) (s.fbWr - s.fbCur) m
    fbCur := 0
    fbWr := (s.fbWr - s.fbCur) + m.length }

/-- FB_ADD (43_framer.md R185, R187). -/
def execFbAdd (s : State) : Host.Outcome State Fault Refusal :=
  .next (s.withInput fun m =>
    if s.params.fbCap < (s.fbWr - s.fbCur) + m.length then s.raise .errOverflow
    else
      ((s.appendToStore m).setRes (BitVec.ofNat 32 m.length)
        (BitVec.ofNat 32 ((s.fbWr - s.fbCur) + m.length)) 0#32).finish .ok)

/-- The end of FB_EXTRACT (R188, R192). -/
def State.extractResult (s : State) (r : Extracted) : State :=
  match r.frame with
  | some f =>
    (({ s with fbCur := r.cursor }.setOut f).setRes (BitVec.ofNat 32 (r.cursor - s.fbCur))
      (BitVec.ofNat 32 (s.fbWr - r.cursor)) 0#32).finish .ok
  | none =>
    (({ s with fbCur := r.cursor }.clearOutLen).setRes (BitVec.ofNat 32 (r.cursor - s.fbCur))
      (BitVec.ofNat 32 (s.fbWr - r.cursor)) 0#32).finish .none

/-- FB_EXTRACT (43_framer.md R188). -/
def execFbExtract (s : State) : Host.Outcome State Fault Refusal := .next (s.extractResult s.extract)

/-- FB_CLEAR (43_framer.md R198). -/
def execFbClear (s : State) : Host.Outcome State Fault Refusal :=
  .next (({ s with fbWr := 0, fbCur := 0 }.setRes (BitVec.ofNat 32 (s.fbWr - s.fbCur)) 0#32 0#32).finish .ok)

/-- FB_PEEK (43_framer.md R199). -/
def execFbPeek (s : State) : Host.Outcome State Fault Refusal :=
  .next (((s.setOut s.unconsumed).setRes (BitVec.ofNat 32 (s.fbWr - s.fbCur)) 0#32 0#32).finish .ok)

end Sys2Proof.Machine
end

