-- ==== Sys2Proof/Machine/Packet.lean ====
section
/-! DEFINITION. The packet encoder and decoder (42_packet.md). -/

namespace Sys2Proof.Machine

/-- The control byte (42_packet.md R153): deviceId in bits [6:2], bit 7 set for TC, bits [1:0] zero. -/
def controlByte (t : PacketType) (dev : Byte) : Byte :=
  (dev <<< 2) ||| (if t = .tc then 0x80#8 else 0x00#8)

/-- The five timestamp bytes, low byte first (R154). -/
def timestampBytes (ts : DWord) : List Byte :=
  [ts.extractLsb' 0 8, ts.extractLsb' 8 8, ts.extractLsb' 16 8, ts.extractLsb' 24 8, ts.extractLsb' 32 8]

/-- The header `h` (R157). -/
def header (t : PacketType) (dev : Byte) (ts : DWord) (len : Nat) : List Byte :=
  [Config.version, BitVec.ofNat 8 len, controlByte t dev] ++ timestampBytes ts

/-- A frame and the checksum it carries. -/
structure BuiltFrame where
  bytes : List Byte
  crc : Half
  deriving DecidableEq, Repr

/-- The frame of legal operands (R157). -/
def frameOf (crcBe : Bool) (t : PacketType) (dev : Byte) (ts : DWord) (p : List Byte) : BuiltFrame :=
  let h := header t dev ts p.length
  let c := crc16 (h ++ p)
  { bytes := h ++ p ++ wireCrc crcBe c, crc := c }

/-- `BuildFrame(t, dev, ts, p)` (R156, R157): the first failing check's code, or the frame. -/
def buildFrame (crcBe : Bool) (t : BitVec 2) (dev : Byte) (ts : DWord) (p : List Byte) : Except ResultCode BuiltFrame :=
  match packetTypeOf t with
  | none => .error .errIllegal
  | some ty =>
    if 2 ^ Config.timestampBits ≤ ts.toNat then .error .errTimestamp
    else if Config.deviceIdMax < dev.toNat then .error .errDevice
    else if Config.maxPayload < p.length then .error .errLength
    else .ok (frameOf crcBe ty dev ts p)

/-- BuildFrame on the operands of PKT_BUILD and PKT_ENCODE (30_encoding.md R97). -/
def State.buildFrame (s : State) (p : List Byte) : Except ResultCode BuiltFrame :=
  Sys2Proof.Machine.buildFrame s.ctrl.crcBe s.typeCode s.deviceId s.ts p

/-- The end of PKT_BUILD and PKT_ENCODE (R159, R160): the error code, or the bytes to put out with the checksum in RES0 and
their number in RES1. -/
def State.packetResult (s : State) (r : Except ResultCode BuiltFrame) (toOut : List Byte → List Byte) : State :=
  match r with
  | .error e => s.raise e
  | .ok f =>
    ((s.setOut (toOut f.bytes)).setRes (f.crc.setWidth 32) (BitVec.ofNat 32 (toOut f.bytes).length) 0#32).finish .ok

/-- PKT_BUILD (42_packet.md R159). -/
def execPktBuild (s : State) : Host.Outcome State Fault Refusal :=
  .next (s.withInput fun p => s.packetResult (s.buildFrame p) fun f => f)

/-- The bytes PKT_ENCODE puts out for a frame (R160): stuffed, delimited, and with a leading delimiter under ENC_LEAD. -/
def transmissionBytes (encLead : Bool) (f : List Byte) : List Byte :=
  if encLead then Config.delim :: delimit (stuff f) else delimit (stuff f)

/-- PKT_ENCODE (42_packet.md R160). -/
def execPktEncode (s : State) : Host.Outcome State Fault Refusal :=
  .next (s.withInput fun p => s.packetResult (s.buildFrame p) (transmissionBytes s.ctrl.encLead))

/-- Why a decoded packet is the sentinel (42_packet.md R165). -/
inductive Reason where
  /-- REASON_NONE = 0. -/
  | none
  /-- REASON_VERSION = 1. -/
  | version
  /-- REASON_LENGTH = 2. -/
  | length
  deriving DecidableEq, Repr

/-- The reason's code (R165). -/
def Reason.code : Reason → BitVec 2
  | .none => 0#2
  | .version => 1#2
  | .length => 2#2

/-- A decoded packet (R150) with the reason of R165. -/
structure Packet where
  type : PacketType
  deviceId : BitVec 5
  timestamp : BitVec 40
  payload : List Byte
  reason : Reason
  deriving DecidableEq, Repr

/-- `Sentinel(reason)` (R166). -/
def sentinel (r : Reason) : Packet :=
  { type := .unknown, deviceId := 31#5, timestamp := 0#40, payload := [], reason := r }

/-- Byte `i` of a frame, 0 past its end; the decoder reads only bytes inside the frame (R165). -/
def frameByte (f : List Byte) (i : Nat) : Byte := f.getD i 0x00#8

/-- The timestamp of a frame (R154): byte 3 holds bits [7:0], byte 7 bits [39:32]. -/
def frameTimestamp (f : List Byte) : BitVec 40 :=
  (frameByte f 7 ++ frameByte f 6 ++ frameByte f 5 ++ frameByte f 4 ++ frameByte f 3 : BitVec (8 + 8 + 8 + 8 + 8))

/-- `DecodeFrame(f)` (R165). -/
def decodeFrame (f : List Byte) : Packet :=
  if 1 ≤ f.length ∧ frameByte f 0 ≠ Config.version then sentinel .version
  else if f.length < Config.minFrame ∨ (frameByte f 1).toNat ≠ f.length - Config.minFrame then sentinel .length
  else
    { type := if (frameByte f 2).getLsbD 7 then .tc else .tm
      deviceId := (frameByte f 2).extractLsb' 2 5
      timestamp := frameTimestamp f
      payload := (f.drop Config.hdrSize).take (frameByte f 1).toNat
      reason := .none }

/-- RES0 of PKT_DECODE (R168): TYPE in [1:0], DEVICE_ID in [15:8], REASON in [17:16], zero elsewhere. -/
def Packet.res0 (p : Packet) : Word :=
  (0#14 ++ p.reason.code ++ 0#3 ++ p.deviceId ++ 0#6 ++ p.type.code : BitVec (14 + 2 + 3 + 5 + 6 + 2))

/-- PKT_DECODE (42_packet.md R168). -/
def execPktDecode (s : State) : Host.Outcome State Fault Refusal :=
  .next (s.withInput fun f =>
    let p := decodeFrame f
    ((s.setOut p.payload).setRes p.res0 (p.timestamp.extractLsb' 0 32)
      ((p.timestamp.extractLsb' 32 8).setWidth 32)).finish .ok)

end Sys2Proof.Machine
end

