-- ==== Sys2Proof/Machine/Dispatch.lean ====
section
/-! DEFINITION. The meaning of every command: one arm per constructor of Instr (30_encoding.md R93). -/

namespace Sys2Proof.Machine

def exec (i : Instr) (s : State) : Host.Outcome State Fault Refusal :=
  match i with
  | .nop => Sys2Proof.Machine.execNop s
  | .crcCompute => Sys2Proof.Machine.execCrcCompute s
  | .crcVerify => Sys2Proof.Machine.execCrcVerify s
  | .cobsStuff => Sys2Proof.Machine.execCobsStuff s
  | .cobsStuffDelim => Sys2Proof.Machine.execCobsStuffDelim s
  | .cobsUnstuff => Sys2Proof.Machine.execCobsUnstuff s
  | .pktEncode => Sys2Proof.Machine.execPktEncode s
  | .pktBuild => Sys2Proof.Machine.execPktBuild s
  | .pktDecode => Sys2Proof.Machine.execPktDecode s
  | .fbAdd => Sys2Proof.Machine.execFbAdd s
  | .fbExtract => Sys2Proof.Machine.execFbExtract s
  | .fbClear => Sys2Proof.Machine.execFbClear s
  | .fbPeek => Sys2Proof.Machine.execFbPeek s

end Sys2Proof.Machine
end

