-- ==== Sys2Proof/Machine/Port.lean ====
section
/-! DEFINITION. The host port: a read, a write with the command a write to CMD starts (30_encoding.md R90), and reset. -/

namespace Sys2Proof.Machine

/-- The command a CMD value encodes (30_encoding.md R92): one of the map, or the illegal command. -/
def runCommand (v : Word) (s : State) : Host.Outcome State Fault Refusal :=
  match decode v with
  | .ok i => exec i s
  | .error _ => illegalCommand s

/-- A legal write at a location: it stores, and a write to CMD then runs the command to completion (R90). -/
def commitWrite (l : Location) (n : Nat) (v : Word) (s : State) : Host.Outcome State Fault Refusal :=
  if l = .register .cmd then runCommand v (s.writeLocation l n v) else .next (s.writeLocation l n v)

/-- `MemRead(addr, n)` (20_memory.md R62 to R68): the value goes to the host port; nothing else changes. -/
def hostRead (addr n : Nat) (s : State) : Host.Outcome State Fault Refusal :=
  match checkAddress s.params addr n with
  | .error f => .fault f
  | .ok l => .next { s with response := .data (s.readLocation l n) }

/-- `MemWrite(addr, n, v)` (20_memory.md R62 to R68). -/
def hostWrite (addr n : Nat) (v : Word) (s : State) : Host.Outcome State Fault Refusal :=
  match checkAddress s.params addr n with
  | .error f => .fault f
  | .ok l => commitWrite l n v { s with response := .written }

/-- One event at the engine: a host access, or reset (70_reset_and_hazards.md R250). -/
def perform (e : HostEvent) (s : State) : Host.Outcome State Fault Refusal :=
  match e with
  | .read addr n => hostRead addr n s
  | .write addr n v => hostWrite addr n v s
  | .reset inBytes outBytes storeBytes => .next (s.afterReset inBytes outBytes storeBytes)

/-- The engine's next event: the oldest one, which is then over; with none, the engine waits and nothing changes
(10_state.md R20, 20_memory.md R72). -/
def stepHost (s : State) : Host.Outcome State Fault Refusal :=
  match s.host with
  | [] => .next s
  | e :: rest => perform e { s with host := rest }

/-- The write to CMD that an opcode-table word stands for, as the host's next event. -/
def State.withCommandWrite (s : State) (nbits w : Nat) : State :=
  { s with host := .write (s.params.base + Reg.offset .cmd) 4 (tableWord nbits w) :: s.host }

/-- A host that goes on after a bus error (20_memory.md R77 leaves to the platform what the host does): the error is
recorded at the host port and the next access follows. -/
def carryOnHost (s : State) : Host.Outcome State Fault Refusal :=
  match stepHost s with
  | .fault _ => .next s.afterBusError
  | .next t => .next t
  | .refused r => .refused r

end Sys2Proof.Machine
end

