-- ==== Sys2Proof/Machine/Step.lean ====
section
/-! DEFINITION. One step of the machine: the host's oldest coming access, or reset, from start to completion
(20_memory.md R72; 70_reset_and_hazards.md R270). -/

namespace Sys2Proof.Machine

/-- One step. It answers the next state, or the bus error of an illegal host access. -/
def step (s : State) : Host.Outcome State Fault Refusal := stepHost s

/-- `s` with the instruction's word as the value of the host's next write to CMD, which is where this machine takes its
instructions from (10_state.md R20; log 1). -/
def State.withFetchWord (s : State) (nbits w : Nat) : State := s.withCommandWrite nbits w

/-- One step with a host that goes on after a bus error (log 4). -/
def carryOn (s : State) : Host.Outcome State Fault Refusal := carryOnHost s

end Sys2Proof.Machine
end

