-- ==== Sys2Proof/Machine/Script.lean ====
section
/-! DEFINITION. The host running a command script (30_encoding.md R100 to R103): lines, pseudo-instructions with their
expansions, host variables, host branches, and the sequence of bus accesses that is the script's encoding. -/

namespace Sys2Proof.Machine

/-- A host variable (R100). `n`, `t` and `st` are the `$n`, `$t` and `$s` that the expansions assign (R101). DESIGN CHOICE
(log 10): they are host variables like any other, so a later line of the script can read what an expansion left in them; a
script that has a `$n`, `$t` or `$s` apart from these names it by `named`. -/
inductive HostVar where
  | named (k : Nat)
  | n
  | t
  | st
  deriving DecidableEq, Repr

/-- A value of a line: a number or a host variable. -/
inductive HostValue where
  | num (v : Word)
  | var (x : HostVar)
  deriving DecidableEq, Repr

/-- A script line (R100) or pseudo-instruction (R101). Labels are numbers. -/
inductive ScriptLine where
  | wr32 (r : Reg) (v : HostValue)
  | rd32 (r : Reg) (x : HostVar)
  | wr8 (k : Nat) (v : HostValue)
  | rd8 (k : Nat) (x : HostVar)
  | label (l : Nat)
  | halt
  | cmd (i : Instr)
  | ldin (bs : List Byte)
  | out2in
  /-- T and D are numbers of any size (log 11); TS is the 64-bit timestamp operand (10_state.md R30). -/
  | setpkt (t d : Nat) (ts : DWord)
  | bres (c : ResultCode) (l : Nat)
  | bnres (c : ResultCode) (l : Nat)
  deriving DecidableEq, Repr

/-- Whether the script goes on. -/
inductive ScriptStatus where
  | running
  /-- A `halt` line, or the end of the script (log 6). -/
  | halted
  /-- A branch to no label or a variable never assigned (log 6). -/
  | stuck
  deriving DecidableEq, Repr

/-- The host running a script, and the engine it drives. -/
structure ScriptState where
  engine : State
  /-- The index of the next line. -/
  pos : Nat
  vars : List (HostVar × Word)
  status : ScriptStatus
  /-- The bus accesses issued so far, in order: the encoding (R103). -/
  issued : List HostEvent
  deriving DecidableEq, Repr

/-- The host before the first line. -/
def ScriptState.start (s : State) : ScriptState :=
  { engine := s, pos := 0, vars := [], status := .running, issued := [] }

/-- The value of a host variable. -/
def ScriptState.lookup (h : ScriptState) (x : HostVar) : Option Word :=
  match h.vars.find? (fun p => p.1 == x) with
  | some p => some p.2
  | none => none

/-- `$x := v`. -/
def ScriptState.assign (h : ScriptState) (x : HostVar) (v : Word) : ScriptState :=
  { h with vars := (x, v) :: h.vars.filter (fun p => p.1 != x) }

/-- The value a line gives. -/
def ScriptState.valueOf (h : ScriptState) (v : HostValue) : Option Word :=
  match v with
  | .num w => some w
  | .var x => h.lookup x

/-- Issue one bus access. What a script does after one of its accesses is a bus error is the host's (20_memory.md R77, and
R100 gives no line a meaning then): DESIGN CHOICE (log 12), the run of the script ends in that fault, the record of the accesses
issued is not kept, and there is no form that goes on. -/
def ScriptState.issue (h : ScriptState) (e : HostEvent) : Host.Outcome ScriptState Fault Refusal :=
  andThen (perform e h.engine) fun s => .next { h with engine := s, issued := h.issued ++ [e] }

/-- Issue bus accesses in order. -/
def ScriptState.issueAll (h : ScriptState) (es : List HostEvent) : Host.Outcome ScriptState Fault Refusal :=
  match es with
  | [] => .next h
  | e :: rest => andThen (h.issue e) fun h' => h'.issueAll rest

/-- Put the data of the read just issued in a host variable. -/
def ScriptState.takeData (h : ScriptState) (x : HostVar) : ScriptState :=
  match h.engine.response with
  | .data v => h.assign x v
  | .none => h
  | .written => h
  | .busError => h

/-- `MemWrite(BASE + offset(REG), 4, v)` (R100). -/
def wr32Access (p : Params) (r : Reg) (v : Word) : HostEvent := .write (p.base + r.offset) 4 v

/-- `MemRead(BASE + offset(REG), 4)` (R100). -/
def rd32Access (p : Params) (r : Reg) : HostEvent := .read (p.base + r.offset) 4

/-- `MemWrite(BASE + 0x1000 + k, 1, v)` (R100). -/
def wr8Access (p : Params) (k : Nat) (v : Word) : HostEvent := .write (p.base + Config.inBase + k) 1 v

/-- `MemRead(BASE + 0x2000 + k, 1)` (R100). -/
def rd8Access (p : Params) (k : Nat) : HostEvent := .read (p.base + Config.outBase + k) 1

/-- The accesses of `cmd MNEMONIC` (R101, R103). -/
def cmdAccesses (p : Params) (i : Instr) : List HostEvent := [wr32Access p .cmd (encode i)]

/-- The byte writes of `ldin` from IN+k on (R101). -/
def ldinBytes (p : Params) (k : Nat) (bs : List Byte) : List HostEvent :=
  match bs with
  | [] => []
  | b :: t => wr8Access p k (b.setWidth 32) :: ldinBytes p (k + 1) t

/-- The accesses of `ldin b0 … b(n-1)` (R101). -/
def ldinAccesses (p : Params) (bs : List Byte) : List HostEvent :=
  ldinBytes p 0 bs ++ [wr32Access p .inLen (BitVec.ofNat 32 bs.length)]

/-- The accesses of `setpkt T, D, TS` (R101). R101 gives T and D no width: DESIGN CHOICE (log 11), they are any numbers, and
the 32-bit write takes the low 32 bits of `T | D << 8`. -/
def setpktAccesses (p : Params) (t d : Nat) (ts : DWord) : List HostEvent :=
  [wr32Access p .arg0 (BitVec.ofNat 32 (t ||| (d <<< 8))),
   wr32Access p .arg1 (ts.extractLsb' 0 32),
   wr32Access p .arg2 (ts.extractLsb' 32 32)]

/-- The loop of `out2in` (R101): for `n` bytes from k on, read OUT+k into `$t` and write it to IN+k. -/
def ScriptState.copyBytes (h : ScriptState) (k n : Nat) : Host.Outcome ScriptState Fault Refusal :=
  match n with
  | 0 => .next h
  | m + 1 =>
    andThen (h.issue (rd8Access h.engine.params k)) fun h1 =>
      let h2 := h1.takeData .t
      match h2.lookup .t with
      | none => .next { h2 with status := .stuck }
      | some b => andThen (h2.issue (wr8Access h2.engine.params k b)) fun h3 => h3.copyBytes (k + 1) m

/-- `out2in` (R101). -/
def ScriptState.outToIn (h : ScriptState) : Host.Outcome ScriptState Fault Refusal :=
  andThen (h.issue (rd32Access h.engine.params .outLen)) fun h1 =>
    let h2 := h1.takeData .n
    match h2.lookup .n with
    | none => .next { h2 with status := .stuck }
    | some n =>
      andThen (h2.copyBytes 0 n.toNat) fun h3 => h3.issue (wr32Access h3.engine.params .inLen n)

/-- The position of a label. The spec says nothing of a label that stands twice in a script: DESIGN CHOICE (log 6), the
first one is meant. -/
def labelPos (script : List ScriptLine) (l : Nat) : Option Nat := script.findIdx? (fun x => x == .label l)

/-- Continue at a label (R100, R101). -/
def ScriptState.continueAt (h : ScriptState) (script : List ScriptLine) (l : Nat) : ScriptState :=
  match labelPos script l with
  | some k => { h with pos := k }
  | none => { h with status := .stuck }

/-- Continue at a label when `$s[3:0]` is (or is not) the code (R101, R102). -/
def ScriptState.branch (h : ScriptState) (script : List ScriptLine) (c : ResultCode) (wanted : Bool) (l : Nat) :
    Host.Outcome ScriptState Fault Refusal :=
  andThen (h.issue (rd32Access h.engine.params .status)) fun h1 =>
    let h2 := h1.takeData .st
    match h2.lookup .st with
    | none => .next { h2 with status := .stuck }
    | some v => .next (if (v.extractLsb' 0 4 == c.code) == wanted then h2.continueAt script l else h2)

/-- Issue an access whose value a line gives. -/
def ScriptState.issueWith (h : ScriptState) (v : HostValue) (access : Word → HostEvent) :
    Host.Outcome ScriptState Fault Refusal :=
  match h.valueOf v with
  | some w => h.issue (access w)
  | none => .next { h with status := .stuck }

/-- One line (R100, R101), the position already moved past it. -/
def ScriptState.runLine (h : ScriptState) (script : List ScriptLine) (x : ScriptLine) :
    Host.Outcome ScriptState Fault Refusal :=
  match x with
  | .wr32 r v => h.issueWith v (wr32Access h.engine.params r)
  | .rd32 r y => andThen (h.issue (rd32Access h.engine.params r)) fun h1 => .next (h1.takeData y)
  | .wr8 k v => h.issueWith v (wr8Access h.engine.params k)
  | .rd8 k y => andThen (h.issue (rd8Access h.engine.params k)) fun h1 => .next (h1.takeData y)
  | .label _ => .next h
  | .halt => .next { h with status := .halted }
  | .cmd i => h.issueAll (cmdAccesses h.engine.params i)
  | .ldin bs => h.issueAll (ldinAccesses h.engine.params bs)
  | .out2in => h.outToIn
  | .setpkt t d ts => h.issueAll (setpktAccesses h.engine.params t d ts)
  | .bres c l => h.branch script c true l
  | .bnres c l => h.branch script c false l

/-- One step of the host on its script. -/
def ScriptState.stepLine (h : ScriptState) (script : List ScriptLine) : Host.Outcome ScriptState Fault Refusal :=
  if h.status = .running then
    match script[h.pos]? with
    | some x => { h with pos := h.pos + 1 }.runLine script x
    | none => .next { h with status := .halted }
  else .next h

/-- `k` lines of a script. -/
def ScriptState.run (h : ScriptState) (script : List ScriptLine) (k : Nat) : Host.Outcome ScriptState Fault Refusal :=
  match k with
  | 0 => .next h
  | j + 1 => andThen (h.stepLine script) fun h' => h'.run script j

/-- The recommended bring-up (70_reset_and_hazards.md R255): read ID and the capacities into variables 0 to 3, set CTRL, and,
when the engine was not just reset, clear the framer and ERR. -/
def bringUp (ctrl : Word) (justReset : Bool) : List ScriptLine :=
  [.rd32 .id (.named 0), .rd32 .inCapr (.named 1), .rd32 .outCapr (.named 2), .rd32 .fbCapr (.named 3),
   .wr32 .ctrl (.num ctrl)] ++ (if justReset then [] else [.cmd .fbClear, .wr32 .status (.num 0x100#32)])

/-- A drain: `FB_EXTRACT` called until it returns NONE, at most `k` times (70_reset_and_hazards.md R265, 30_encoding.md
R102); the frames, oldest first, and the engine afterwards. -/
def drain (k : Nat) (s : State) : List (List Byte) × State :=
  match k with
  | 0 => ([], s)
  | j + 1 =>
    match exec .fbExtract s with
    | .next t =>
      if t.status.result = .ok then
        let r := drain j t
        (Memory.slice t.outBuf 0 t.outLen.toNat :: r.1, r.2)
      else ([], t)
    | .fault _ => ([], s)
    | .refused _ => ([], s)

end Sys2Proof.Machine
end

