-- ==== Sys2Proof/Safety.lean ====
section
/-! DEFINITION. What the claims speak of: the invariant of the engine's state, what counts as a safe step, and the relations
between the state before a command and the state after it. -/

namespace Sys2Proof.Machine

/-- The invariant of the engine: legal parameters (00_scope.md R8), buffers in canonical form within their capacities,
OUT_LEN ≤ OUT_CAP (10_state.md R28) and 0 ≤ FB_CUR ≤ FB_WR ≤ FB_CAP (R37). -/
structure State.Inv (s : State) : Prop where
  paramsLegal : s.params.wf = true
  inCanonical : Memory.wf s.inBuf
  inWithin : Memory.within s.inBuf s.params.inCap
  outCanonical : Memory.wf s.outBuf
  outWithin : Memory.within s.outBuf s.params.outCap
  storeCanonical : Memory.wf s.fbStore
  storeWithin : Memory.within s.fbStore s.params.fbCap
  outLenFits : s.outLen.toNat ≤ s.params.outCap
  cursorLe : s.fbCur ≤ s.fbWr
  heldFits : s.fbWr ≤ s.params.fbCap

/-- The host's next access is legal: the step does not stop in a bus error. -/
def SafeStep (s : State) : Prop := ∀ f, step s ≠ .fault f

/-- A host access of `n` bytes at offset `o` that is legal (20_memory.md R62, R63, R64): no byte of it falls on a location
"none"; in register space it is an aligned 32-bit access; elsewhere it is an 8-bit access, a 16-bit one at an even offset or
a 32-bit one at a multiple of 4. -/
structure LegalAccess (p : Params) (o n : Nat) : Prop where
  mapped : ∀ k, k < n → locate p (o + k) ≠ .hole
  register : o < 0x40 → n = 4 ∧ o % 4 = 0
  buffer : 0x40 ≤ o → n = 1 ∨ (n = 2 ∧ o % 2 = 0) ∨ (n = 4 ∧ o % 4 = 0)

/-- Everything a command only reads is as before: the parameters, CTRL, CMD, IN_LEN, ARG0 to ARG2, every byte of IN_BUF, the
host's coming accesses and the host port. -/
structure OperandsKept (s t : State) : Prop where
  params : t.params = s.params
  ctrl : t.ctrl = s.ctrl
  cmd : t.cmd = s.cmd
  inLen : t.inLen = s.inLen
  arg0 : t.arg0 = s.arg0
  arg1 : t.arg1 = s.arg1
  arg2 : t.arg2 = s.arg2
  inBuf : ∀ a, Memory.read t.inBuf a = Memory.read s.inBuf a
  host : t.host = s.host
  response : t.response = s.response

/-- RES0 to RES2 are as before. -/
structure ResultsKept (s t : State) : Prop where
  res0 : t.res0 = s.res0
  res1 : t.res1 = s.res1
  res2 : t.res2 = s.res2

/-- Every byte of OUT_BUF is as before. -/
def OutBytesKept (s t : State) : Prop := ∀ a, Memory.read t.outBuf a = Memory.read s.outBuf a

/-- OUT_LEN and every byte of OUT_BUF are as before. -/
structure OutKept (s t : State) : Prop where
  outLen : t.outLen = s.outLen
  outBuf : OutBytesKept s t

/-- FB_WR and every byte of FB_STORE are as before. -/
structure StoreKept (s t : State) : Prop where
  fbWr : t.fbWr = s.fbWr
  fbStore : ∀ a, Memory.read t.fbStore a = Memory.read s.fbStore a

/-- The framer is as before: FB_WR, FB_CUR and every byte of FB_STORE. -/
structure FramerKept (s t : State) : Prop where
  store : StoreKept s t
  fbCur : t.fbCur = s.fbCur

/-- RES0, RES1, RES2 after a command. -/
structure ResultsAre (t : State) (r0 r1 r2 : Word) : Prop where
  res0 : t.res0 = r0
  res1 : t.res1 = r1
  res2 : t.res2 = r2

/-- OUT_LEN is the length of `b`, OUT_BUF begins with `b`, and its later bytes are as before. -/
structure OutIs (s t : State) (b : List Byte) : Prop where
  outLen : t.outLen.toNat = b.length
  bytes : ∀ k, (h : k < b.length) → Memory.read t.outBuf k = b[k]
  rest : ∀ a, b.length ≤ a → Memory.read t.outBuf a = Memory.read s.outBuf a

/-- The command finished with `c`: RESULT is `c`, and ERR is set by codes 2 to 7 and otherwise kept. -/
structure Finished (s t : State) (c : ResultCode) : Prop where
  result : t.status.result = c
  err : t.status.err = (s.status.err || decide (2 ≤ c.code.toNat))

/-- The command finished with the error code `e` and wrote nothing but STATUS (60_exceptions.md R223). -/
structure OnlyStatus (s t : State) (e : ResultCode) : Prop where
  finished : Finished s t e
  operands : OperandsKept s t
  results : ResultsKept s t
  out : OutKept s t
  framer : FramerKept s t

/-- Two states that differ only in how the framer holds its unconsumed region (10_state.md R38). -/
structure SameButStore (s t : State) : Prop where
  params : t.params = s.params
  ctrl : t.ctrl = s.ctrl
  cmd : t.cmd = s.cmd
  status : t.status = s.status
  inLen : t.inLen = s.inLen
  outLen : t.outLen = s.outLen
  arg0 : t.arg0 = s.arg0
  arg1 : t.arg1 = s.arg1
  arg2 : t.arg2 = s.arg2
  res0 : t.res0 = s.res0
  res1 : t.res1 = s.res1
  res2 : t.res2 = s.res2
  inBuf : t.inBuf = s.inBuf
  outBuf : t.outBuf = s.outBuf
  region : t.unconsumed = s.unconsumed
  host : t.host = s.host
  response : t.response = s.response

/-- A frame whose checksum is right: at least MIN_FRAME bytes, the last two of which are the checksum of the others in the
wire order of CRC_BE (43_framer.md R181). -/
def GoodFrame (crcBe : Bool) (f : List Byte) : Prop :=
  ∃ h, Config.hdrSize ≤ h.length ∧ f = h ++ wireCrc crcBe (crc16 h)

/-- A frame of at least MIN_FRAME bytes whose last two bytes are not the checksum of the others. -/
def BadFrame (crcBe : Bool) (f : List Byte) : Prop :=
  ∃ h w, Config.hdrSize ≤ h.length ∧ w.length = 2 ∧ w ≠ wireCrc crcBe (crc16 h) ∧ f = h ++ w

/-- The host's next event is a 32-bit write of `v` to CMD. -/
def NextIsCommand (s : State) (v : Word) (rest : List HostEvent) : Prop :=
  s.host = .write (s.params.base + 0x008) 4 v :: rest

end Sys2Proof.Machine
end

