-- ==== Sys2Proof/Certificates/Slice0/Obligations.lean ====
section
/-! DEFINITION. The statements for the provers. Each says which rule of spec/ it formalises. -/

open Sys2Proof Sys2Proof.Machine

/-! ### Reset and the invariant -/

/-- Reset leaves every register as 10_state.md R42 says; the bytes of the buffers are whatever the reset's argument gives,
so any bytes. -/
def Obligations.ResetLeavesTheSpecifiedRegisters : Prop :=
  ∀ (s : State) (inBytes outBytes storeBytes : List Byte),
    ∃ t, perform (.reset inBytes outBytes storeBytes) s = .next t ∧
      t.readReg .ctrl = 0#32 ∧ t.readReg .cmd = 0#32 ∧
      t.readReg .status = 0#32 ∧ t.status.result = .ok ∧ t.status.err = false ∧
      t.readReg .inLen = 0#32 ∧ t.readReg .outLen = 0#32 ∧
      t.readReg .arg0 = 0#32 ∧ t.readReg .arg1 = 0#32 ∧ t.readReg .arg2 = 0#32 ∧
      t.readReg .res0 = 0#32 ∧ t.readReg .res1 = 0#32 ∧ t.readReg .res2 = 0#32 ∧
      t.fbWr = 0 ∧ t.fbCur = 0 ∧ t.unconsumed = [] ∧ t.readReg .fbLen = 0#32 ∧
      t.readReg .id = 0x4F500107#32 ∧ t.readReg .fbCapr = BitVec.ofNat 32 s.params.fbCap ∧
      t.readReg .inCapr = BitVec.ofNat 32 s.params.inCap ∧ t.readReg .outCapr = BitVec.ofNat 32 s.params.outCap ∧
      (∀ k, k < inBytes.length → k < s.params.inCap → Memory.read t.inBuf k = inBytes.getD k 0#8) ∧
      (∀ k, k < outBytes.length → k < s.params.outCap → Memory.read t.outBuf k = outBytes.getD k 0#8) ∧
      (∀ k, k < storeBytes.length → k < s.params.fbCap → Memory.read t.fbStore k = storeBytes.getD k 0#8)

/-- The bytes of IN_BUF and OUT_BUF after reset may be any bytes (70_reset_and_hazards.md R251): for any choice of them, and
any legal parameters, some reset state holds exactly that choice. -/
def Obligations.ResetBytesMayBeAnything : Prop :=
  ∀ (p : Params) (f g : Nat → Byte), p.wf = true →
    ∃ inBytes outBytes, ∀ storeBytes,
      (∀ k, k < p.inCap → Memory.read (State.resetWith p inBytes outBytes storeBytes).inBuf k = f k) ∧
      (∀ k, k < p.outCap → Memory.read (State.resetWith p inBytes outBytes storeBytes).outBuf k = g k)

/-- The invariant holds at the machine's reset state, whose parameters and buffer bytes are the model's choice (log 2, log
3), and at every reset state of legal parameters. -/
def Obligations.InvariantHoldsAtReset : Prop :=
  State.reset.Inv ∧
  ∀ (p : Params) (inBytes outBytes storeBytes : List Byte), p.wf = true →
    (State.resetWith p inBytes outBytes storeBytes).Inv

/-- Every step keeps the invariant: legal parameters, canonical buffers within their capacities, OUT_LEN ≤ OUT_CAP and
0 ≤ FB_CUR ≤ FB_WR ≤ FB_CAP. In particular a result written with SetOut always fits OUT_BUF (00_scope.md R13). -/
def Obligations.StepKeepsTheInvariant : Prop :=
  ∀ s t : State, s.Inv → step s = .next t → t.Inv

/-- No step, reset included, changes the parameters (70_reset_and_hazards.md R253, 10_state.md R41). -/
def Obligations.ParametersNeverChange : Prop :=
  ∀ s t : State, step s = .next t ∨ carryOn s = .next t → t.params = s.params

/-! ### Encoding, and what a step does with a CMD write -/

/-- Decoding an encoded command gives it back. -/
def Obligations.DecodeOfEncodeIsTheCommand : Prop :=
  ∀ i : Instr, i.wellFormed = true → decode (encode i) = .ok i

/-- Decode is exact over all 2^32 values (30_encoding.md R92, R93): a value decodes to a command only when it is that
command's word, and it decodes to some command exactly when it is well formed. -/
def Obligations.DecodeIsExact : Prop :=
  (∀ (v : Word) (i : Instr), decode v = .ok i ↔ v = encode i) ∧
  (∀ v : Word, (∃ i, decode v = .ok i) ↔ cmdWellFormed v = true)

/-- A few words of the opcode map, written out from 30_encoding.md R93, one or two of each family. -/
def Obligations.WrittenOutWordsDecode : Prop :=
  decode 0x00000000#32 = .ok .nop ∧ decode 0x00000002#32 = .ok .crcVerify ∧
  decode 0x00000012#32 = .ok .cobsUnstuff ∧ decode 0x00000020#32 = .ok .pktEncode ∧
  decode 0x00000021#32 = .ok .pktBuild ∧ decode 0x00000031#32 = .ok .fbExtract ∧
  decode 0x00000134#32 = .error .mbzNotZero ∧ decode 0x00000034#32 = .error .unlistedOpcode

/-- A step runs the decoded command: when the host's next access writes to CMD a value that decodes to `i`, the step is the
meaning of `i` in the state that has the value in CMD, the access taken off the host's list and the port answered. -/
def Obligations.StepRunsTheDecodedCommand : Prop :=
  ∀ (s : State) (v : Word) (i : Instr) (rest : List HostEvent),
    NextIsCommand s v rest → decode v = .ok i →
      step s = exec i { s with host := rest, cmd := v, response := .written }

/-- The word placed by withFetchWord is the one the next step runs (the model's way of giving it a command, log 1). -/
def Obligations.FetchWordRunsNext : Prop :=
  ∀ (s : State) (i : Instr),
    step (s.withFetchWord 32 (encode i).toNat) = exec i { s with cmd := encode i, response := .written } ∧
    decodeTableWord 32 (encode i).toNat = some i

/-- Decode of a written value (30_encoding.md R92): with MBZ not zero, or an OPCODE outside the map, the command is illegal
and finishes ERR_ILLEGAL with no other effect; otherwise the command with that OPCODE is performed. -/
def Obligations.IllegalCommandRaisesErrIllegal : Prop :=
  ∀ (s : State) (v : Word) (rest : List HostEvent), NextIsCommand s v rest →
    ((v.extractLsb' 8 24 ≠ 0#24 ∨
        v.extractLsb' 0 8 ∉ ([0x00, 0x01, 0x02, 0x10, 0x11, 0x12, 0x20, 0x21, 0x22, 0x30, 0x31, 0x32, 0x33] : List Byte)) →
      ∃ t, step s = .next t ∧ OnlyStatus { s with host := rest, cmd := v, response := .written } t .errIllegal) ∧
    (¬ (v.extractLsb' 8 24 ≠ 0#24 ∨
        v.extractLsb' 0 8 ∉ ([0x00, 0x01, 0x02, 0x10, 0x11, 0x12, 0x20, 0x21, 0x22, 0x30, 0x31, 0x32, 0x33] : List Byte)) →
      ∃ i, encode i = v ∧ step s = exec i { s with host := rest, cmd := v, response := .written })

/-- With no coming access the engine waits (10_state.md R20): nothing changes. That a wait is a step is the model's choice
(log 1). -/
def Obligations.IdleStepChangesNothing : Prop :=
  ∀ s : State, s.host = [] → step s = .next s

/-! ### The host window -/

/-- The offset map (20_memory.md R61), total over the offsets of the window. -/
def Obligations.OffsetMapIsTotal : Prop :=
  ∀ (p : Params) (o : Nat), p.wf = true → o < 0x4000 →
    (o < 0x40 → ∃ r : Reg, r.offset = 4 * (o / 4) ∧ locate p o = .register r) ∧
    (0x40 ≤ o → o < 0x1000 → locate p o = .hole) ∧
    (0x1000 ≤ o → o < 0x1000 + p.inCap → locate p o = .inByte (o - 0x1000)) ∧
    (0x1000 + p.inCap ≤ o → o < 0x2000 → locate p o = .hole) ∧
    (0x2000 ≤ o → o < 0x2000 + p.outCap → locate p o = .outByte (o - 0x2000)) ∧
    (0x2000 + p.outCap ≤ o → locate p o = .hole)

/-- Which accesses are bus errors (20_memory.md R62, R63, R64): an access stops the step exactly when it is not legal. That
the step ends in a fault is R67's own sentence. The clauses about carryOn, the host that goes on, in which nothing of the
engine changes, rest on the model's choice of log 4. -/
def Obligations.IllegalAccessIsABusError : Prop :=
  ∀ (s : State) (o n : Nat) (v : Word) (rest : List HostEvent), s.params.wf = true → o < 0x4000 → 1 ≤ n →
    s.host = .read (s.params.base + o) n :: rest ∨ s.host = .write (s.params.base + o) n v :: rest →
      (¬ LegalAccess s.params o n →
        (∃ f, step s = .fault f) ∧ carryOn s = .next { s with host := rest, response := .busError }) ∧
      (LegalAccess s.params o n → ∃ t, step s = .next t ∧ carryOn s = .next t)

/-- An access outside the window BASE to BASE + 0x3FFF (20_memory.md R60) is a fault. That it is one is the model's choice
(log 4): no rule says what an access to another address does. -/
def Obligations.AccessOutsideTheWindowFaults : Prop :=
  ∀ (s : State) (addr n : Nat) (v : Word) (rest : List HostEvent),
    s.host = .read addr n :: rest ∨ s.host = .write addr n v :: rest →
      addr < s.params.base ∨ s.params.base + 0x4000 ≤ addr → step s = .fault (.outsideWindow addr)

/-- Only an illegal host access stops a step: no command, no reset and no illegal command does (60_exceptions.md R230,
R231), and nothing is refused. -/
def Obligations.OnlyHostAccessesFault : Prop :=
  (∀ (s : State) (f : Fault), step s = .fault f →
    ∃ addr n rest, (s.host = .read addr n :: rest ∨ ∃ v, s.host = .write addr n v :: rest) ∧
      checkAddress s.params addr n = .error f) ∧
  (∀ (s : State) (r : Refusal), step s ≠ .refused r)

/-- The address is that of a byte of IN_BUF (20_memory.md R61). -/
def Sys2Proof.Machine.InInBuf (s : State) (addr : Nat) : Prop :=
  s.params.base + 0x1000 ≤ addr ∧ addr < s.params.base + 0x1000 + s.params.inCap

/-- Host reads have no side effect; a legal write to anything but CMD and STATUS stores the value and does nothing else, and
one to STATUS touches only STATUS; every legal write but one to CMD is idempotent (20_memory.md R68). -/
def Obligations.ReadsAndPlainWritesHaveNoSideEffect : Prop :=
  (∀ (s t : State) (addr n : Nat) (rest : List HostEvent), s.host = .read addr n :: rest → step s = .next t →
    ∃ v, t = { s with host := rest, response := .data v }) ∧
  (∀ (s : State) (v : Word) (rest : List HostEvent),
    (s.host = .write (s.params.base + 0x004) 4 v :: rest →
      step s = .next { s with host := rest, response := .written,
                              ctrl := { crcBe := v.getLsbD 0, encLead := v.getLsbD 1 } }) ∧
    (s.host = .write (s.params.base + 0x010) 4 v :: rest →
      step s = .next { s with host := rest, response := .written, inLen := v.extractLsb' 0 16 }) ∧
    (s.host = .write (s.params.base + 0x018) 4 v :: rest →
      step s = .next { s with host := rest, response := .written, arg0 := v }) ∧
    (s.host = .write (s.params.base + 0x01C) 4 v :: rest →
      step s = .next { s with host := rest, response := .written, arg1 := v }) ∧
    (s.host = .write (s.params.base + 0x020) 4 v :: rest →
      step s = .next { s with host := rest, response := .written, arg2 := v }) ∧
    (s.host = .write (s.params.base + 0x00C) 4 v :: rest →
      step s = .next { s with host := rest, response := .written,
                              status := { result := s.status.result, err := s.status.err && !v.getLsbD 8 } })) ∧
  (∀ (s t : State) (addr n : Nat) (v : Word) (rest : List HostEvent), s.Inv → s.host = .write addr n v :: rest →
    step s = .next t →
      (InInBuf s addr →
        t = { s with host := rest, response := .written, inBuf := t.inBuf } ∧
        ∀ a, s.params.base + 0x1000 + a < addr ∨ addr + n ≤ s.params.base + 0x1000 + a →
          Memory.read t.inBuf a = Memory.read s.inBuf a) ∧
      (¬ InInBuf s addr → addr - s.params.base ∉ [0x004, 0x008, 0x00C, 0x010, 0x018, 0x01C, 0x020] →
        t = { s with host := rest, response := .written })) ∧
  (∀ (s t : State) (addr n : Nat) (v : Word) (rest : List HostEvent), s.Inv → s.host = .write addr n v :: rest →
    step s = .next t → addr ≠ s.params.base + 0x008 →
      step { t with host := .write addr n v :: rest } = .next t)

/-- A legal write to a read-only location is ignored and is not an error; a legal write to STATUS changes only ERR
(20_memory.md R66). -/
def Obligations.ReadOnlyLocationsIgnoreWrites : Prop :=
  ∀ (s : State) (v : Word) (rest : List HostEvent),
    (∀ r ∈ ([.id, .outLen, .res0, .res1, .res2, .fbLen, .fbCapr, .inCapr, .outCapr] : List Reg),
      s.host = .write (s.params.base + r.offset) 4 v :: rest →
        step s = .next { s with host := rest, response := .written }) ∧
    (∀ i n, s.params.wf = true → LegalAccess s.params (0x2000 + i) n →
      s.host = .write (s.params.base + (0x2000 + i)) n v :: rest →
        step s = .next { s with host := rest, response := .written }) ∧
    (s.host = .write (s.params.base + 0x00C) 4 v :: rest →
      step s = .next { s with host := rest, response := .written,
                              status := { result := s.status.result, err := s.status.err && !v.getLsbD 8 } })

/-- Host byte order is little-endian (20_memory.md R65): a legal write of n bytes to IN_BUF stores byte k of the value at
index i + k and changes nothing else, and a legal read of n bytes of IN_BUF or OUT_BUF returns byte k in bits [8k+7:8k]. -/
def Obligations.BufferAccessesAreLittleEndian : Prop :=
  ∀ (s : State) (i n : Nat) (v : Word) (rest : List HostEvent), s.Inv →
    (s.host = .write (s.params.base + (0x1000 + i)) n v :: rest → i < s.params.inCap →
      LegalAccess s.params (0x1000 + i) n →
        ∃ t, step s = .next t ∧
          (∀ k, k < n → Memory.read t.inBuf (i + k) = v.extractLsb' (8 * k) 8) ∧
          (∀ a, a < i ∨ i + n ≤ a → Memory.read t.inBuf a = Memory.read s.inBuf a) ∧
          t = { s with host := rest, response := .written, inBuf := t.inBuf }) ∧
    (s.host = .read (s.params.base + (0x1000 + i)) n :: rest → i < s.params.inCap →
      LegalAccess s.params (0x1000 + i) n →
        ∃ w, step s = .next { s with host := rest, response := .data w } ∧
          (∀ k, k < n → w.extractLsb' (8 * k) 8 = Memory.read s.inBuf (i + k)) ∧ w.toNat < 2 ^ (8 * n)) ∧
    (s.host = .read (s.params.base + (0x2000 + i)) n :: rest → LegalAccess s.params (0x2000 + i) n →
        ∃ w, step s = .next { s with host := rest, response := .data w } ∧
          (∀ k, k < n → w.extractLsb' (8 * k) 8 = Memory.read s.outBuf (i + k)) ∧ w.toNat < 2 ^ (8 * n))

/-- What each register reads as through the window (10_state.md R22 to R33). -/
def Obligations.RegistersReadAsTheMapSays : Prop :=
  ∀ (s : State) (r : Reg) (rest : List HostEvent), s.host = .read (s.params.base + r.offset) 4 :: rest →
    ∃ w, step s = .next { s with host := rest, response := .data w } ∧
      (r = .id → w = 0x4F500107#32) ∧
      (r = .ctrl → w.getLsbD 0 = s.ctrl.crcBe ∧ w.getLsbD 1 = s.ctrl.encLead ∧ w.extractLsb' 2 30 = 0#30) ∧
      (r = .cmd → w = s.cmd) ∧
      (r = .status → w.extractLsb' 0 4 = s.status.result.code ∧ w.extractLsb' 4 4 = 0#4 ∧
        w.getLsbD 8 = s.status.err ∧ w.extractLsb' 9 23 = 0#23) ∧
      (r = .inLen → w.extractLsb' 0 16 = s.inLen ∧ w.extractLsb' 16 16 = 0#16) ∧
      (r = .outLen → w.extractLsb' 0 16 = s.outLen ∧ w.extractLsb' 16 16 = 0#16) ∧
      (r = .arg0 → w = s.arg0) ∧ (r = .arg1 → w = s.arg1) ∧ (r = .arg2 → w = s.arg2) ∧
      (r = .res0 → w = s.res0) ∧ (r = .res1 → w = s.res1) ∧ (r = .res2 → w = s.res2) ∧
      (r = .fbLen → w = BitVec.ofNat 32 s.unconsumed.length) ∧
      (r = .fbCapr → w = BitVec.ofNat 32 s.params.fbCap) ∧
      (r = .inCapr → w = BitVec.ofNat 32 s.params.inCap) ∧
      (r = .outCapr → w = BitVec.ofNat 32 s.params.outCap)

/-- Reserved register bits read as zero and ignore writes; CMD keeps its bits [31:8] and they make the command illegal;
ARG0, ARG1 and ARG2 keep every bit (10_state.md R34). -/
def Obligations.ReservedBitsReadZeroAndIgnoreWrites : Prop :=
  ∀ (s : State) (r : Reg) (v : Word) (rest : List HostEvent),
    s.host = .write (s.params.base + r.offset) 4 v :: rest →
      ∃ t, step s = .next t ∧
        (r = .ctrl → t.readReg .ctrl = (v &&& 0x00000003#32)) ∧
        (r = .status → (t.readReg .status &&& 0xFFFFFEF0#32) = 0#32) ∧
        (r = .inLen → t.readReg .inLen = (v &&& 0x0000FFFF#32)) ∧
        ((t.readReg .outLen &&& 0xFFFF0000#32) = 0#32) ∧
        (r = .arg0 → t.readReg .arg0 = v) ∧ (r = .arg1 → t.readReg .arg1 = v) ∧ (r = .arg2 → t.readReg .arg2 = v) ∧
        (r = .cmd → t.readReg .cmd = v ∧ (v.extractLsb' 8 24 ≠ 0#24 → t.status.result = .errIllegal))

/-! ### Results, errors and frames of all commands -/

/-- STATUS.ERR is sticky (60_exceptions.md R222): a command sets it on codes 2 to 7 and otherwise keeps it, and nothing but
a host write of STATUS with bit 8 = 1, or reset, clears it. -/
def Obligations.ErrIsSticky : Prop :=
  (∀ (i : Instr) (s t : State), exec i s = .next t → Finished s t t.status.result) ∧
  (∀ s t : State, step s = .next t → s.status.err = true → t.status.err = false →
    (∃ v rest, s.host = .write (s.params.base + 0x00C) 4 v :: rest ∧ v.getLsbD 8 = true) ∨
    (∃ a b c rest, s.host = .reset a b c :: rest))

/-- Error atomicity (60_exceptions.md R223): a command that finishes with an error code writes STATUS.RESULT and STATUS.ERR
and nothing else; the illegal command, which always does, included. -/
def Obligations.ErrorsWriteOnlyStatus : Prop :=
  (∀ (i : Instr) (s t : State), exec i s = .next t → 2 ≤ t.status.result.code.toNat → OnlyStatus s t t.status.result) ∧
  (∀ s : State, ∃ t, illegalCommand s = .next t ∧ OnlyStatus s t .errIllegal)

/-- The argument bits a command reads (10_state.md R29, R30) are the same in ARG0, ARG1, ARG2 and in `a`, `b`, `c`. -/
def Sys2Proof.Machine.SameArgumentBits (i : Instr) (s : State) (a b c : Word) : Prop :=
  (i = .crcVerify → a.extractLsb' 0 16 = s.arg0.extractLsb' 0 16) ∧
  (i = .pktBuild ∨ i = .pktEncode →
    a.extractLsb' 0 2 = s.arg0.extractLsb' 0 2 ∧ a.extractLsb' 8 8 = s.arg0.extractLsb' 8 8 ∧ b = s.arg1 ∧ c = s.arg2)

/-- A command ignores the argument bits it does not list, and only PKT_BUILD and PKT_ENCODE read ARG1 and ARG2
(10_state.md R29, R30, R34): with other values in those bits it does the same. -/
def Obligations.CommandsIgnoreUnusedArgumentBits : Prop :=
  ∀ (i : Instr) (s t : State) (a b c : Word), SameArgumentBits i s a b c → exec i s = .next t →
    exec i { s with arg0 := a, arg1 := b, arg2 := c } = .next { t with arg0 := a, arg1 := b, arg2 := c }

/-- The codes of 60_exceptions.md R225's table, by command. -/
def Sys2Proof.Machine.codesOf : Instr → List ResultCode
  | .nop => [.ok]
  | .crcCompute => [.ok, .errIllegal]
  | .crcVerify => [.ok, .errIllegal]
  | .cobsStuff => [.ok, .errIllegal]
  | .cobsStuffDelim => [.ok, .errIllegal]
  | .cobsUnstuff => [.ok, .errIllegal, .errUnstuff]
  | .pktEncode => [.ok, .errIllegal, .errTimestamp, .errDevice, .errLength]
  | .pktBuild => [.ok, .errIllegal, .errTimestamp, .errDevice, .errLength]
  | .pktDecode => [.ok, .errIllegal]
  | .fbAdd => [.ok, .errIllegal, .errOverflow]
  | .fbExtract => [.ok, .none]
  | .fbClear => [.ok]
  | .fbPeek => [.ok]

/-- The codes a command can finish with (60_exceptions.md R225, which the spec marks as derived): exactly those of the table, each from some state that meets
the invariant. -/
def Obligations.CommandsFinishWithTheTablesCodes : Prop :=
  ∀ (i : Instr) (c : ResultCode),
    c ∈ codesOf i ↔ ∃ s t : State, s.Inv ∧ exec i s = .next t ∧ t.status.result = c

/-- No command reads RESULT or ERR (10_state.md R40): with another STATUS before it, a command does the same to everything
else, finishes with the same code, and ERR after it differs only by what ERR was. -/
def Obligations.CommandsDoNotReadTheFlags : Prop :=
  ∀ (i : Instr) (s t : State) (st : Status), exec i s = .next t →
    exec i { s with status := st } =
      .next { t with status := { result := t.status.result,
                                 err := st.err || decide (2 ≤ t.status.result.code.toNat) } }

/-- No command writes IN_BUF, IN_LEN, CTRL, CMD, ARG0 to ARG2 or the parameters (20_memory.md R71, 44_misc.md R211,
70_reset_and_hazards.md R268). -/
def Obligations.CommandsKeepTheirOperands : Prop :=
  ∀ (i : Instr) (s t : State), exec i s = .next t → OperandsKept s t

/-- Only FB_ADD, FB_EXTRACT and FB_CLEAR write the framer (10_state.md R37). -/
def Obligations.OnlyFramerCommandsWriteTheFramer : Prop :=
  ∀ (i : Instr) (s t : State), i ≠ .fbAdd → i ≠ .fbExtract → i ≠ .fbClear → exec i s = .next t → FramerKept s t

/-! ### The commands -/

/-- NOP (44_misc.md R210): RESULT becomes OK, ERR and everything else is as before; a CMD value with OPCODE 0x00 and MBZ not
zero is not NOP. -/
def Obligations.NopOnlyReportsOk : Prop :=
  encode .nop = 0x00000000#32 ∧
  (∀ v : Word, v.extractLsb' 0 8 = 0x00#8 → v.extractLsb' 8 24 ≠ 0#24 → decode v ≠ .ok .nop) ∧
  ∀ s : State, ∃ t, exec .nop s = .next t ∧ Finished s t .ok ∧ t.status.err = s.status.err ∧ OperandsKept s t ∧
    ResultsKept s t ∧ OutKept s t ∧ FramerKept s t ∧
    (s.readReg .status = 0x00000105#32 → t.readReg .status = 0x00000100#32)

/-- The nine ASCII bytes "123456789" of the examples. -/
def Sys2Proof.Machine.nineDigits : List Byte := [0x31, 0x32, 0x33, 0x34, 0x35, 0x36, 0x37, 0x38, 0x39]

/-- CRC_COMPUTE (40_crc.md R120). -/
def Obligations.CrcComputePutsTheChecksumInRes0 : Prop :=
  encode .crcCompute = 0x00000001#32 ∧
  (∀ s : State, s.params.inCap < s.inLen.toNat → ∃ t, exec .crcCompute s = .next t ∧ OnlyStatus s t .errIllegal) ∧
  (∀ s : State, s.inLen.toNat ≤ s.params.inCap →
    ∃ t, exec .crcCompute s = .next t ∧ Finished s t .ok ∧ OperandsKept s t ∧ OutKept s t ∧ FramerKept s t ∧
      ResultsAre t ((crc16 s.inBytes).setWidth 32) 0#32 0#32 ∧
      (s.inLen = 0#16 → t.res0 = 0x00000000#32) ∧
      (s.inBytes = nineDigits → t.res0 = 0x000020FE#32))

/-- CRC_VERIFY (40_crc.md R121): a mismatch is a result, not an error. -/
def Obligations.CrcVerifyReportsTheMatch : Prop :=
  encode .crcVerify = 0x00000002#32 ∧
  (∀ s : State, s.params.inCap < s.inLen.toNat → ∃ t, exec .crcVerify s = .next t ∧ OnlyStatus s t .errIllegal) ∧
  (∀ s : State, s.inLen.toNat ≤ s.params.inCap →
    ∃ t, exec .crcVerify s = .next t ∧ Finished s t .ok ∧ OperandsKept s t ∧ OutKept s t ∧ FramerKept s t ∧
      t.res1 = 0#32 ∧ t.res2 = 0#32 ∧
      t.res0.extractLsb' 16 16 = crc16 s.inBytes ∧ t.res0.extractLsb' 1 15 = 0#15 ∧
      (t.res0.getLsbD 0 = true ↔ s.arg0.extractLsb' 0 16 = crc16 s.inBytes) ∧
      (s.inLen = 0#16 → (t.res0.getLsbD 0 = true ↔ s.arg0.extractLsb' 0 16 = 0x0000#16)) ∧
      (s.inBytes = nineDigits → s.arg0 = 0x000020FE#32 → t.res0 = 0x20FE0001#32) ∧
      (s.inBytes = nineDigits → s.arg0 = 0x0000FE20#32 → t.res0 = 0x20FE0000#32))

/-- COBS_STUFF (41_cobs.md R140). -/
def Obligations.CobsStuffPutsOutTheStuffing : Prop :=
  encode .cobsStuff = 0x00000010#32 ∧
  (∀ s : State, s.params.inCap < s.inLen.toNat → ∃ t, exec .cobsStuff s = .next t ∧ OnlyStatus s t .errIllegal) ∧
  (∀ s : State, s.Inv → s.inLen.toNat ≤ s.params.inCap →
    ∃ t, exec .cobsStuff s = .next t ∧ Finished s t .ok ∧ OperandsKept s t ∧ FramerKept s t ∧
      OutIs s t (stuff s.inBytes) ∧ ResultsAre t (BitVec.ofNat 32 (stuff s.inBytes).length) 0#32 0#32 ∧
      (s.inLen = 0#16 → OutIs s t [0x01]) ∧
      (s.inBytes.length = 254 → 0x00#8 ∉ s.inBytes → OutIs s t (0xFF#8 :: s.inBytes)) ∧
      (s.inBytes = [0x00] → OutIs s t [0x01, 0x01]) ∧
      (s.inBytes = [0x11, 0x22, 0x00, 0x33] → OutIs s t [0x03, 0x11, 0x22, 0x02, 0x33] ∧ t.res0 = 5#32))

/-- COBS_STUFF_DELIM (41_cobs.md R141). -/
def Obligations.CobsStuffDelimAppendsTheDelimiter : Prop :=
  encode .cobsStuffDelim = 0x00000011#32 ∧
  (∀ s : State, s.params.inCap < s.inLen.toNat → ∃ t, exec .cobsStuffDelim s = .next t ∧ OnlyStatus s t .errIllegal) ∧
  (∀ s : State, s.Inv → s.inLen.toNat ≤ s.params.inCap →
    ∃ t, exec .cobsStuffDelim s = .next t ∧ Finished s t .ok ∧ OperandsKept s t ∧ FramerKept s t ∧
      OutIs s t (stuff s.inBytes ++ [0x00]) ∧
      ResultsAre t (BitVec.ofNat 32 ((stuff s.inBytes).length + 1)) 0#32 0#32 ∧
      0x00#8 ∉ stuff s.inBytes ∧
      (s.inLen = 0#16 → OutIs s t [0x01, 0x00]) ∧
      (s.inBytes = [0x11, 0x22, 0x00, 0x33] → OutIs s t [0x03, 0x11, 0x22, 0x02, 0x33, 0x00] ∧ t.res0 = 6#32))

/-- COBS_UNSTUFF (41_cobs.md R142). -/
def Obligations.CobsUnstuffPutsOutTheBytesOrFails : Prop :=
  encode .cobsUnstuff = 0x00000012#32 ∧
  (∀ s : State, s.params.inCap < s.inLen.toNat → ∃ t, exec .cobsUnstuff s = .next t ∧ OnlyStatus s t .errIllegal) ∧
  (∀ s : State, s.inLen.toNat ≤ s.params.inCap → unstuff s.inBytes = none →
    ∃ t, exec .cobsUnstuff s = .next t ∧ OnlyStatus s t .errUnstuff) ∧
  (∀ (s : State) (r : List Byte), s.Inv → s.inLen.toNat ≤ s.params.inCap → unstuff s.inBytes = some r →
    ∃ t, exec .cobsUnstuff s = .next t ∧ Finished s t .ok ∧ OperandsKept s t ∧ FramerKept s t ∧
      OutIs s t r ∧ ResultsAre t (BitVec.ofNat 32 r.length) 0#32 0#32) ∧
  unstuff [] = none ∧ (∀ d : List Byte, 0x00#8 ∈ d → unstuff d = none) ∧
  (∀ (k : Byte) (d : List Byte), d.length + 1 < k.toNat → unstuff (k :: d) = none) ∧
  unstuff [0x01] = some [] ∧ unstuff [0x01, 0x01] = some [0x00] ∧
  (∀ b : List Byte, b.length = 254 → 0x00#8 ∉ b → unstuff (0xFF#8 :: (b ++ [0x01])) = some b) ∧
  unstuff [0x02, 0x11, 0x01] = some [0x11, 0x00] ∧ unstuff [0x03, 0x11] = none

/-- The header of 42_packet.md R152 and R157, byte by byte, for the operands in ARG0 to ARG2 and a payload `p`. -/
def Sys2Proof.Machine.wireHeader (s : State) (p : List Byte) : List Byte :=
  [0x01#8, BitVec.ofNat 8 p.length,
   (s.arg0.extractLsb' 8 8 <<< 2) ||| (if s.arg0.extractLsb' 0 2 = 1#2 then 0x80#8 else 0x00#8),
   s.arg1.extractLsb' 0 8, s.arg1.extractLsb' 8 8, s.arg1.extractLsb' 16 8, s.arg1.extractLsb' 24 8,
   s.arg2.extractLsb' 0 8]

/-- The checksum bytes of 40_crc.md R115. -/
def Sys2Proof.Machine.wireChecksum (s : State) (c : Half) : List Byte :=
  if s.ctrl.crcBe = true then [c.extractLsb' 8 8, c.extractLsb' 0 8] else [c.extractLsb' 0 8, c.extractLsb' 8 8]

/-- The frame of 42_packet.md R157: header, payload, checksum over both. -/
def Sys2Proof.Machine.wireFrame (s : State) (p : List Byte) : List Byte :=
  wireHeader s p ++ p ++ wireChecksum s (crc16 (wireHeader s p ++ p))

/-- The operands of PKT_BUILD and PKT_ENCODE that pass every check of 42_packet.md R156. -/
structure Sys2Proof.Machine.LegalPacket (s : State) : Prop where
  input : s.inLen.toNat ≤ s.params.inCap
  type : s.arg0.extractLsb' 0 2 ≠ 3#2
  timestamp : s.arg2.toNat < 2 ^ 8
  device : (s.arg0.extractLsb' 8 8).toNat ≤ 31
  length : s.inLen.toNat ≤ 255

/-- The checks of 60_exceptions.md R224 and 42_packet.md R156, in their order: the code of the first that fails. -/
def Sys2Proof.Machine.PacketErrors (i : Instr) : Prop :=
  (∀ s : State, s.params.inCap < s.inLen.toNat → ∃ t, exec i s = .next t ∧ OnlyStatus s t .errIllegal) ∧
  (∀ s : State, s.arg0.extractLsb' 0 2 = 3#2 → ∃ t, exec i s = .next t ∧ OnlyStatus s t .errIllegal) ∧
  (∀ s : State, s.inLen.toNat ≤ s.params.inCap → s.arg0.extractLsb' 0 2 ≠ 3#2 → 2 ^ 8 ≤ s.arg2.toNat →
    ∃ t, exec i s = .next t ∧ OnlyStatus s t .errTimestamp) ∧
  (∀ s : State, s.inLen.toNat ≤ s.params.inCap → s.arg0.extractLsb' 0 2 ≠ 3#2 → s.arg2.toNat < 2 ^ 8 →
    31 < (s.arg0.extractLsb' 8 8).toNat → ∃ t, exec i s = .next t ∧ OnlyStatus s t .errDevice) ∧
  (∀ s : State, s.inLen.toNat ≤ s.params.inCap → s.arg0.extractLsb' 0 2 ≠ 3#2 → s.arg2.toNat < 2 ^ 8 →
    (s.arg0.extractLsb' 8 8).toNat ≤ 31 → 255 < s.inLen.toNat → ∃ t, exec i s = .next t ∧ OnlyStatus s t .errLength)

/-- PKT_BUILD (42_packet.md R159, with R156 and R157). -/
def Obligations.PktBuildPutsOutTheFrame : Prop :=
  encode .pktBuild = 0x00000021#32 ∧ PacketErrors .pktBuild ∧
  (∀ s : State, s.Inv → LegalPacket s →
    ∃ t, exec .pktBuild s = .next t ∧ Finished s t .ok ∧ OperandsKept s t ∧ FramerKept s t ∧
      OutIs s t (wireFrame s s.inBytes) ∧
      ResultsAre t ((crc16 (wireHeader s s.inBytes ++ s.inBytes)).setWidth 32)
        (BitVec.ofNat 32 (10 + s.inLen.toNat)) 0#32 ∧
      (s.arg0 = 0#32 → s.arg1 = 0#32 → s.arg2 = 0#32 → s.inLen = 0#16 → s.ctrl.crcBe = false →
        OutIs s t [0x01, 0x00, 0x00, 0x00, 0x00, 0x00, 0x00, 0x00, 0x51, 0x18] ∧ t.res0 = 0x00001851#32 ∧
          t.res1 = 10#32))

/-- PKT_ENCODE (42_packet.md R160). -/
def Obligations.PktEncodePutsOutTheTransmission : Prop :=
  encode .pktEncode = 0x00000020#32 ∧ PacketErrors .pktEncode ∧
  (∀ s : State, s.Inv → LegalPacket s →
    ∃ t, exec .pktEncode s = .next t ∧ Finished s t .ok ∧ OperandsKept s t ∧ FramerKept s t ∧
      (s.ctrl.encLead = false → OutIs s t (stuff (wireFrame s s.inBytes) ++ [0x00]) ∧
        12 ≤ t.outLen.toNat ∧ t.outLen.toNat ≤ 268) ∧
      (s.ctrl.encLead = true → OutIs s t ([0x00] ++ stuff (wireFrame s s.inBytes) ++ [0x00]) ∧
        13 ≤ t.outLen.toNat ∧ t.outLen.toNat ≤ 269) ∧
      0x00#8 ∉ stuff (wireFrame s s.inBytes) ∧
      ResultsAre t ((crc16 (wireHeader s s.inBytes ++ s.inBytes)).setWidth 32) (t.outLen.setWidth 32) 0#32 ∧
      (s.arg0 = 0#32 → s.arg1 = 0#32 → s.arg2 = 0#32 → s.inLen = 0#16 → s.ctrl.crcBe = false → s.ctrl.encLead = false →
        OutIs s t [0x02, 0x01, 0x01, 0x01, 0x01, 0x01, 0x01, 0x01, 0x03, 0x51, 0x18, 0x00] ∧ t.res1 = 12#32))

/-- PKT_DECODE (42_packet.md R168, with R165 and R166): the sentinel for a structural error, version first; otherwise the
fields of the frame. The checksum is not checked. -/
def Obligations.PktDecodeGivesThePacketOrTheSentinel : Prop :=
  encode .pktDecode = 0x00000022#32 ∧
  (∀ s : State, s.params.inCap < s.inLen.toNat → ∃ t, exec .pktDecode s = .next t ∧ OnlyStatus s t .errIllegal) ∧
  (∀ s : State, s.Inv → s.inLen.toNat ≤ s.params.inCap →
    ∃ t, exec .pktDecode s = .next t ∧ Finished s t .ok ∧ OperandsKept s t ∧ FramerKept s t ∧
      (1 ≤ s.inLen.toNat → s.inBytes.getD 0 0#8 ≠ 0x01#8 →
        OutIs s t [] ∧ ResultsAre t 0x00011F02#32 0#32 0#32) ∧
      ((1 ≤ s.inLen.toNat → s.inBytes.getD 0 0#8 = 0x01#8) →
        (s.inLen.toNat < 10 ∨ (s.inBytes.getD 1 0#8).toNat + 10 ≠ s.inLen.toNat) →
        OutIs s t [] ∧ ResultsAre t 0x00021F02#32 0#32 0#32) ∧
      (10 ≤ s.inLen.toNat → s.inBytes.getD 0 0#8 = 0x01#8 → (s.inBytes.getD 1 0#8).toNat + 10 = s.inLen.toNat →
        OutIs s t ((s.inBytes.drop 8).take (s.inLen.toNat - 10)) ∧
        t.res0.extractLsb' 0 2 = (if (s.inBytes.getD 2 0#8).getLsbD 7 then 1#2 else 0#2) ∧
        t.res0.extractLsb' 2 6 = 0#6 ∧
        t.res0.extractLsb' 8 8 = ((s.inBytes.getD 2 0#8).extractLsb' 2 5).setWidth 8 ∧
        t.res0.extractLsb' 16 16 = 0#16 ∧
        t.res1.extractLsb' 0 8 = s.inBytes.getD 3 0#8 ∧ t.res1.extractLsb' 8 8 = s.inBytes.getD 4 0#8 ∧
        t.res1.extractLsb' 16 8 = s.inBytes.getD 5 0#8 ∧ t.res1.extractLsb' 24 8 = s.inBytes.getD 6 0#8 ∧
        t.res2 = (s.inBytes.getD 7 0#8).setWidth 32) ∧
      (s.inBytes = [0x01, 0x00, 0x00, 0x00, 0x00, 0x00, 0x00, 0x00, 0x51, 0x18] →
        t.outLen = 0#16 ∧ ResultsAre t 0#32 0#32 0#32))

/-- FB_ADD (43_framer.md R185, R186, R187): the bytes are appended to the unconsumed region, or the whole input is refused. -/
def Obligations.FbAddAppendsOrRefusesWhole : Prop :=
  encode .fbAdd = 0x00000030#32 ∧
  (∀ s : State, s.params.inCap < s.inLen.toNat → ∃ t, exec .fbAdd s = .next t ∧ OnlyStatus s t .errIllegal) ∧
  (∀ s : State, s.inLen.toNat ≤ s.params.inCap → s.params.fbCap < s.unconsumed.length + s.inLen.toNat →
    ∃ t, exec .fbAdd s = .next t ∧ OnlyStatus s t .errOverflow) ∧
  (∀ s : State, s.Inv → s.inLen.toNat ≤ s.params.inCap → s.unconsumed.length + s.inLen.toNat ≤ s.params.fbCap →
    ∃ t, exec .fbAdd s = .next t ∧ Finished s t .ok ∧ OperandsKept s t ∧ OutKept s t ∧
      t.fbCur = 0 ∧ t.fbWr = s.unconsumed.length + s.inLen.toNat ∧ t.unconsumed = s.unconsumed ++ s.inBytes ∧
      (∀ a, s.unconsumed.length + s.inLen.toNat ≤ a → Memory.read t.fbStore a = Memory.read s.fbStore a) ∧
      ResultsAre t (s.inLen.setWidth 32) (t.readReg .fbLen) 0#32 ∧
      (s.unconsumed = [] → s.inBytes = [0x00, 0x02, 0x01] →
        t.unconsumed = [0x00, 0x02, 0x01] ∧ t.res0 = 3#32 ∧ t.res1 = 3#32 ∧ t.readReg .fbLen = 3#32))

/-- FB_EXTRACT (43_framer.md R188, R192), in terms of Extract() (R189). -/
def Obligations.FbExtractReportsTheExtraction : Prop :=
  encode .fbExtract = 0x00000031#32 ∧
  ∀ s : State, s.Inv →
    ∃ t, exec .fbExtract s = .next t ∧ OperandsKept s t ∧ StoreKept s t ∧ t.fbCur = s.extract.cursor ∧
      ResultsAre t (BitVec.ofNat 32 (s.extract.cursor - s.fbCur)) (BitVec.ofNat 32 (s.fbWr - s.extract.cursor)) 0#32 ∧
      t.res1 = t.readReg .fbLen ∧
      (∀ f, s.extract.frame = some f → Finished s t .ok ∧ OutIs s t f) ∧
      (s.extract.frame = none → Finished s t .none ∧ t.outLen = 0#16 ∧ OutBytesKept s t) ∧
      (s.ctrl.crcBe = false →
        s.unconsumed = [0x00, 0x02, 0x01, 0x01, 0x01, 0x01, 0x01, 0x01, 0x01, 0x03, 0x51, 0x18, 0x00] →
          Finished s t .ok ∧ OutIs s t [0x01, 0x00, 0x00, 0x00, 0x00, 0x00, 0x00, 0x00, 0x51, 0x18] ∧
          t.res0 = 13#32 ∧ t.res1 = 0#32)

/-- FB_CLEAR (43_framer.md R198). -/
def Obligations.FbClearEmptiesTheFramer : Prop :=
  encode .fbClear = 0x00000032#32 ∧
  ∀ s : State, ∃ t, exec .fbClear s = .next t ∧ Finished s t .ok ∧ OperandsKept s t ∧ OutKept s t ∧
    t.fbWr = 0 ∧ t.fbCur = 0 ∧ t.unconsumed = [] ∧ (∀ a, Memory.read t.fbStore a = Memory.read s.fbStore a) ∧
    ResultsAre t (s.readReg .fbLen) 0#32 0#32 ∧
    (s.readReg .fbLen = 6#32 → t.res0 = 6#32 ∧ t.readReg .fbLen = 0#32)

/-- FB_PEEK (43_framer.md R199). -/
def Obligations.FbPeekCopiesTheUnconsumedRegion : Prop :=
  encode .fbPeek = 0x00000033#32 ∧
  ∀ s : State, s.Inv → ∃ t, exec .fbPeek s = .next t ∧ Finished s t .ok ∧ OperandsKept s t ∧ FramerKept s t ∧
    OutIs s t s.unconsumed ∧ ResultsAre t (s.readReg .fbLen) 0#32 0#32 ∧
    (s.unconsumed = [] → t.outLen = 0#16) ∧
    (s.unconsumed = [0x00, 0x02, 0x01] → OutIs s t [0x00, 0x02, 0x01] ∧ t.res0 = 3#32)

/-! ### The checksum -/

/-- The generator polynomial G(x) of 40_crc.md R110. -/
noncomputable def Sys2Proof.Machine.crcGenerator : Polynomial (ZMod 2) :=
  .X ^ 16 + .X ^ 14 + .X ^ 13 + .X ^ 12 + .X ^ 10 + .X ^ 8 + .X ^ 6 + .X ^ 4 + .X ^ 3 + .X + 1

/-- The polynomial whose coefficient of x^i is bit i. -/
noncomputable def Sys2Proof.Machine.bitsPoly {n : Nat} (b : BitVec n) : Polynomial (ZMod 2) :=
  ∑ i ∈ Finset.range n, if b.getLsbD i = true then .X ^ i else 0

/-- M(x) of 40_crc.md R110: byte m[0] first, and within each byte bit 7 first, at the highest power. -/
noncomputable def Sys2Proof.Machine.messagePoly (m : List Byte) : Polynomial (ZMod 2) :=
  m.foldl (fun p b => p * .X ^ 8 + bitsPoly b) 0

/-- Crc16(m) is the remainder of M(x) · x^16 divided by G(x) over GF(2), the coefficient of x^15 in bit 15 (40_crc.md
R110, whose reading of the parameters the spec marks as general knowledge, log 7). -/
def Obligations.CrcIsThePolynomialRemainder : Prop :=
  ∀ m : List Byte, bitsPoly (crc16 m) = (messagePoly m * .X ^ 16) %ₘ crcGenerator

/-- The laws of Crc16 (40_crc.md R112, which the spec marks as derived). -/
def Obligations.CrcObeysItsLaws : Prop :=
  crc16 [] = 0x0000#16 ∧ (∀ m, crc16 (0x00#8 :: m) = crc16 m) ∧
  (∀ m1 m2 : List Byte, m1.length = m2.length → crc16 (List.zipWith (· ^^^ ·) m1 m2) = crc16 m1 ^^^ crc16 m2) ∧
  crc16 [0x01] = 0x755B#16

/-- The two wire bytes and back (40_crc.md R115, R116): low byte first under CRC_BE = 0, high byte first under CRC_BE = 1. -/
def Obligations.WireChecksumRoundTrips : Prop :=
  (∀ c : Half, wireCrc false c = [c.extractLsb' 0 8, c.extractLsb' 8 8] ∧
    wireCrc true c = [c.extractLsb' 8 8, c.extractLsb' 0 8]) ∧
  (∀ b0 b1 : Byte, crcFromWire false b0 b1 = (b1.setWidth 16 <<< 8) ||| b0.setWidth 16 ∧
    crcFromWire true b0 b1 = (b0.setWidth 16 <<< 8) ||| b1.setWidth 16) ∧
  (∀ (be : Bool) (c : Half) (b0 b1 : Byte), wireCrc be c = [b0, b1] → crcFromWire be b0 b1 = c)

/-- The residue property (40_crc.md R117, which the spec marks as derived): zero for CRC_BE = 1, and not in general for CRC_BE = 0. -/
def Obligations.BigEndianResidueIsZero : Prop :=
  (∀ h : List Byte, crc16 (h ++ wireCrc true (crc16 h)) = 0x0000#16) ∧
  crc16 (nineDigits ++ wireCrc false (crc16 nineDigits)) = 0x40FC#16

/-- Single-bit sensitivity (40_crc.md R118, which the spec marks as derived): changing one bit of `h` changes its checksum, so a frame with one bit of its
header or payload flipped after encoding never verifies. -/
def Obligations.OneFlippedBitIsDetected : Prop :=
  ∀ (h : List Byte) (k b : Nat) (be : Bool), k < h.length → b < 8 →
    crc16 (h.set k (h.getD k 0#8 ^^^ (1#8 <<< b))) ≠ crc16 h ∧
    verify be (stuff (h.set k (h.getD k 0#8 ^^^ (1#8 <<< b)) ++ wireCrc be (crc16 h))) = none

/-! ### Byte stuffing -/

/-- Properties and length bounds of Stuff and Unstuff (41_cobs.md R131, R133, which the spec marks as derived). -/
def Obligations.StuffingHasNoDelimiterAndIsShort : Prop :=
  (∀ d : List Byte, 0x00#8 ∉ stuff d) ∧ stuff [] = [0x01] ∧ (∀ d : List Byte, 1 ≤ (stuff d).length) ∧
  (∀ d : List Byte, 1 ≤ d.length → (stuff d).length ≤ d.length + 1 + (d.length - 1) / 254) ∧
  (∀ d : List Byte, 1 ≤ d.length → 0x00#8 ∉ d → (stuff d).length = d.length + 1 + (d.length - 1) / 254) ∧
  (∀ f : List Byte, f.length ≤ 265 → (stuff f).length ≤ 267) ∧
  (∀ s r : List Byte, unstuff s = some r → r.length ≤ s.length - 1)

/-- Stuffing is reversible (41_cobs.md R134, which the spec marks as derived). -/
def Obligations.UnstuffUndoesStuff : Prop := ∀ d : List Byte, unstuff (stuff d) = some d

/-! ### Packets -/

/-- The round trip (42_packet.md R169, which the spec marks as derived): stripping the delimiters of PKT_ENCODE's output, unstuffing and decoding gives the
packet back; one of type Unknown comes back as TM. -/
def Obligations.EncodedPacketsDecodeBack : Prop :=
  ∀ (be lead : Bool) (ty : PacketType) (dev : Byte) (ts : DWord) (p : List Byte),
    dev.toNat ≤ 31 → ts.toNat < 2 ^ 40 → p.length ≤ 255 →
      ∃ u, transmissionBytes lead (frameOf be ty dev ts p).bytes = (if lead then [0x00#8] else []) ++ u ++ [0x00#8] ∧
        0x00#8 ∉ u ∧
        (unstuff u).map decodeFrame =
          some { type := (if ty = .tc then .tc else .tm), deviceId := dev.setWidth 5, timestamp := ts.setWidth 40,
                 payload := p, reason := .none }

/-! ### The framer -/

/-- S1 and S2 (43_framer.md R190, R191): fewer than MIN_FRAME bytes change nothing; MIN_FRAME bytes or more with no delimiter
are all discarded. Both return none. -/
def Obligations.ExtractWaitsOrDiscards : Prop :=
  ∀ s : State, s.Inv →
    (s.unconsumed.length < 10 →
      ∃ t, exec .fbExtract s = .next t ∧ Finished s t .none ∧ FramerKept s t ∧ t.res0 = 0#32) ∧
    (10 ≤ s.unconsumed.length → 0x00#8 ∉ s.unconsumed →
      ∃ t, exec .fbExtract s = .next t ∧ Finished s t .none ∧ t.fbCur = s.fbWr ∧ t.unconsumed = [] ∧
        t.res0 = s.readReg .fbLen)

/-- S3a (43_framer.md R193): a leading span of at least MIN_FRAME bytes that verifies is the frame, and the cursor moves
just past its delimiter. -/
def Obligations.ExtractTakesTheLeadingSpan : Prop :=
  ∀ (s : State) (span rest f : List Byte), s.Inv → s.unconsumed = span ++ 0x00#8 :: rest → 0x00#8 ∉ span →
    10 ≤ span.length → verify s.ctrl.crcBe span = some f →
      ∃ t, exec .fbExtract s = .next t ∧ Finished s t .ok ∧ OutIs s t f ∧ t.unconsumed = rest ∧
        t.fbCur = s.fbCur + span.length + 1

/-- S3b (43_framer.md R194): the span between the first two delimiters is the candidate when the leading span gives no frame;
a verified one is returned, and a failed one moves the cursor just past the first delimiter and step 2 is repeated there. Step
1 is not repeated: with fewer than MIN_FRAME bytes left after a failed candidate the scan still goes on, to the last delimiter
(its last clause). -/
def Obligations.ExtractTriesTheDelimitedCandidate : Prop :=
  ∀ (s : State) (span cand rest : List Byte), s.Inv → s.unconsumed = span ++ 0x00#8 :: (cand ++ 0x00#8 :: rest) →
    0x00#8 ∉ span → 0x00#8 ∉ cand → 10 ≤ s.unconsumed.length →
    (span.length < 10 ∨ verify s.ctrl.crcBe span = none) →
      (∀ f, verify s.ctrl.crcBe cand = some f →
        ∃ t, exec .fbExtract s = .next t ∧ Finished s t .ok ∧ OutIs s t f ∧ t.unconsumed = rest) ∧
      (verify s.ctrl.crcBe cand = none →
        s.extract = extractFrom s.ctrl.crcBe s.fbStore s.fbWr (cand ++ 0x00#8 :: rest).length
          (s.fbCur + span.length + 1)) ∧
      (verify s.ctrl.crcBe cand = none → (cand ++ 0x00#8 :: rest).length < 10 →
        ∀ pre tail, 0x00#8 :: rest = pre ++ 0x00#8 :: tail → 0x00#8 ∉ tail →
          ∃ t, exec .fbExtract s = .next t ∧ Finished s t .none ∧ t.outLen = 0#16 ∧ t.unconsumed = 0x00#8 :: tail)

/-- S3c (43_framer.md R195): with one delimiter only, a long enough region after it that verifies is the frame and all is
consumed; otherwise the cursor rests at the delimiter and none is returned. -/
def Obligations.ExtractTriesTheUnterminatedTail : Prop :=
  ∀ (s : State) (span tail : List Byte), s.Inv → s.unconsumed = span ++ 0x00#8 :: tail → 0x00#8 ∉ span →
    0x00#8 ∉ tail → 10 ≤ s.unconsumed.length → (span.length < 10 ∨ verify s.ctrl.crcBe span = none) →
      (∀ f, 10 ≤ tail.length → verify s.ctrl.crcBe tail = some f →
        ∃ t, exec .fbExtract s = .next t ∧ Finished s t .ok ∧ OutIs s t f ∧ t.unconsumed = []) ∧
      (tail.length < 10 ∨ verify s.ctrl.crcBe tail = none →
        ∃ t, exec .fbExtract s = .next t ∧ Finished s t .none ∧ t.unconsumed = 0x00#8 :: tail)

/-- Termination (43_framer.md R196): the cursor never moves back or past the bytes held, a returned frame moves it on, and
one pass through S2 for each unconsumed byte is always enough. -/
def Obligations.ExtractTerminatesAndMovesOn : Prop :=
  (∀ s : State, s.fbCur ≤ s.fbWr →
    s.fbCur ≤ s.extract.cursor ∧ s.extract.cursor ≤ s.fbWr ∧
    (s.extract.frame ≠ none → s.fbCur < s.extract.cursor)) ∧
  (∀ (be : Bool) (st : Memory) (wr cur fuel : Nat), cur < wr → wr - cur ≤ fuel →
    extractFrom be st wr fuel cur = extractFrom be st wr (wr - cur) cur)

/-- Everything a host can observe is a function of the unconsumed region (10_state.md R38, which the spec marks as derived): two states that differ only in
where and among which other bytes the store holds it take the same steps, and go on differing in nothing else. -/
def Obligations.FramerIsObservedOnlyThroughItsRegion : Prop :=
  ∀ s s' : State, s.Inv → s'.Inv → SameButStore s s' →
    (∀ t, step s = .next t → ∃ t', step s' = .next t' ∧ SameButStore t t') ∧
    (∀ f, step s = .fault f → step s' = .fault f)

/-- Idempotent draining (43_framer.md R200, which the spec marks as derived): once FB_EXTRACT has returned NONE, the next one also does, with RES0 = 0 and
the framer unchanged. -/
def Obligations.DrainingIsIdempotent : Prop :=
  ∀ s t : State, exec .fbExtract s = .next t → t.status.result = .none →
    ∃ u, exec .fbExtract t = .next u ∧ u.status.result = .none ∧ u.res0 = 0#32 ∧ FramerKept t u

/-- Shared delimiters (43_framer.md R201, which the spec marks as derived): two units that share one delimiter are extracted in order; a corrupted one is
skipped, and with the second corrupted its trailing delimiter stays. -/
def Obligations.UnitsSharingADelimiterAreExtracted : Prop :=
  ∀ (s : State) (f1 f2 : List Byte), s.Inv → s.unconsumed = stuff f1 ++ 0x00#8 :: (stuff f2 ++ [0x00#8]) →
    (GoodFrame s.ctrl.crcBe f1 → GoodFrame s.ctrl.crcBe f2 →
      ∃ t u w, exec .fbExtract s = .next t ∧ t.status.result = .ok ∧ OutIs s t f1 ∧
        exec .fbExtract t = .next u ∧ u.status.result = .ok ∧ OutIs t u f2 ∧
        exec .fbExtract u = .next w ∧ w.status.result = .none) ∧
    (BadFrame s.ctrl.crcBe f1 → GoodFrame s.ctrl.crcBe f2 →
      ∃ t u, exec .fbExtract s = .next t ∧ t.status.result = .ok ∧ OutIs s t f2 ∧
        exec .fbExtract t = .next u ∧ u.status.result = .none) ∧
    (GoodFrame s.ctrl.crcBe f1 → BadFrame s.ctrl.crcBe f2 →
      ∃ t u, exec .fbExtract s = .next t ∧ t.status.result = .ok ∧ OutIs s t f1 ∧
        exec .fbExtract t = .next u ∧ u.status.result = .none ∧ u.unconsumed = [0x00#8])

/-- One transmission passes the framer (42_packet.md R160, 43_framer.md R188): with or without the leading delimiter, a unit
that carries a frame with a right checksum is extracted whole. -/
def Obligations.OneTransmissionIsExtracted : Prop :=
  ∀ (s : State) (lead : Bool) (f : List Byte), s.Inv → GoodFrame s.ctrl.crcBe f →
    s.unconsumed = transmissionBytes lead f →
      ∃ t, exec .fbExtract s = .next t ∧ Finished s t .ok ∧ OutIs s t f ∧ t.unconsumed = [] ∧
        t.res0 = s.readReg .fbLen

/-- Noise can verify by coincidence (43_framer.md R204, which the spec marks as derived): a run of m ≥ 11 bytes 0x01 between two delimiters is returned as a
frame of m - 1 zero bytes, which PKT_DECODE turns into the sentinel with REASON_VERSION. -/
def Obligations.RunOfOnesVerifiesByCoincidence : Prop :=
  ∀ (s : State) (m : Nat), s.Inv → 11 ≤ m →
    s.unconsumed = 0x00#8 :: (List.replicate m 0x01#8 ++ [0x00#8]) →
      (∃ t, exec .fbExtract s = .next t ∧ Finished s t .ok ∧ OutIs s t (List.replicate (m - 1) 0x00#8)) ∧
      decodeFrame (List.replicate (m - 1) 0x00#8) = sentinel .version

/-! ### The host's script -/

/-- `out2in` (30_encoding.md R101): OUT_LEN bytes of OUT_BUF are copied to IN_BUF and IN_LEN is set to their number, with
one read and one write for each byte and two accesses more; nothing else of the engine changes but the port's answer. -/
def Obligations.OutToInCopiesTheResult : Prop :=
  ∀ h : ScriptState, h.engine.Inv → h.engine.outLen.toNat ≤ h.engine.params.inCap →
    ∃ h', h.outToIn = .next h' ∧ h'.status = h.status ∧ h'.pos = h.pos ∧
      h'.issued.length = h.issued.length + 2 * h.engine.outLen.toNat + 2 ∧
      h'.engine = { h.engine with inLen := h.engine.outLen, inBuf := h'.engine.inBuf, response := .written } ∧
      h'.engine.inBytes = Memory.slice h.engine.outBuf 0 h.engine.outLen.toNat ∧
      (∀ a, h.engine.outLen.toNat ≤ a → Memory.read h'.engine.inBuf a = Memory.read h.engine.inBuf a)
end

