-- ==== Sys2Proof/Laws/Memory.lean ====
section
/-! SUPPORT. The laws of buffer memory: a read after a write, the canonical form is kept, and equal readings are equal data. -/

namespace Sys2Proof.Machine

theorem Memory.wf_nil : Memory.wf [] := by simp [Memory.wf]

theorem Memory.wf_tail {c : Host.Cell} {m : Memory} (h : Memory.wf (c :: m)) : Memory.wf m :=
  ⟨h.1.tail, fun x hx => h.2 x (List.mem_cons_of_mem _ hx)⟩

/-- Below the first listed index nothing is listed. -/
theorem Memory.read_of_lt {m : Memory} {a : Nat} (h : ∀ c ∈ m, a < c.1) : Memory.read m a = Config.unwrittenByte := by
  induction m with
  | nil => rfl
  | cons c t ih =>
    have hc : a < c.1 := h c (List.mem_cons_self ..)
    have : c.1 ≠ a := by omega
    simp only [Memory.read, this, if_false]
    exact ih fun x hx => h x (List.mem_cons_of_mem _ hx)

theorem Memory.head_lt {c : Host.Cell} {m : Memory} (h : Memory.wf (c :: m)) : ∀ x ∈ m, c.1 < x.1 :=
  (List.pairwise_cons.mp h.1).1

theorem Memory.read_write_same {m : Memory} (h : Memory.wf m) (a : Nat) (b : Byte) :
    Memory.read (Memory.write m a b) a = b := by
  induction m with
  | nil => by_cases hb : b = Config.unwrittenByte <;> simp [Memory.write, Memory.read, hb]
  | cons c t ih =>
    obtain ⟨k, x⟩ := c
    have hlt := Memory.head_lt h
    by_cases h1 : a < k
    · by_cases hb : b = Config.unwrittenByte
      · have hall : ∀ c ∈ ((k, x) :: t : Memory), a < c.1 := by
          intro c hc
          rcases List.mem_cons.mp hc with rfl | hc
          · exact h1
          · exact h1.trans (hlt c hc)
        simp only [Memory.write, h1, hb, if_true]
        exact Memory.read_of_lt hall
      · simp [Memory.write, h1, hb, Memory.read]
    · by_cases h2 : a = k
      · subst h2
        by_cases hb : b = Config.unwrittenByte
        · simp only [Memory.write, Nat.lt_irrefl, hb, if_true, if_false]
          exact Memory.read_of_lt hlt
        · simp [Memory.write, hb, Memory.read]
      · have h3 : k ≠ a := fun e => h2 e.symm
        simp only [Memory.write, h1, h2, if_false, Memory.read, h3]
        exact ih (Memory.wf_tail h)

theorem Memory.read_write_other {m : Memory} (a a' : Nat) (b : Byte) (hne : a' ≠ a) :
    Memory.read (Memory.write m a b) a' = Memory.read m a' := by
  have hne' : a ≠ a' := fun e => hne e.symm
  induction m with
  | nil => by_cases hb : b = Config.unwrittenByte <;> simp [Memory.write, Memory.read, hb, hne']
  | cons c t ih =>
    obtain ⟨k, x⟩ := c
    by_cases h1 : a < k
    · by_cases hb : b = Config.unwrittenByte <;> simp [Memory.write, h1, hb, Memory.read, hne']
    · by_cases h2 : a = k
      · subst h2
        by_cases hb : b = Config.unwrittenByte <;> simp [Memory.write, hb, Memory.read, hne']
      · simp only [Memory.write, h1, h2, if_false, Memory.read, ih]

/-- A listed index of a memory after a write is the one written or one listed before. -/
theorem Memory.mem_write {m : Memory} {a : Nat} {b : Byte} {c : Host.Cell} (hc : c ∈ Memory.write m a b) :
    (c = (a, b) ∧ b ≠ Config.unwrittenByte) ∨ c ∈ m := by
  induction m with
  | nil =>
    by_cases hb : b = Config.unwrittenByte
    · simp [Memory.write, hb] at hc
    · simp only [Memory.write, hb, if_false, List.mem_singleton] at hc
      exact Or.inl ⟨hc, hb⟩
  | cons d t ih =>
    obtain ⟨k, x⟩ := d
    simp only [Memory.write] at hc
    split at hc
    · split at hc
      · exact Or.inr hc
      · next hb =>
        rcases List.mem_cons.mp hc with h | h
        · exact Or.inl ⟨h, hb⟩
        · exact Or.inr h
    · split at hc
      · split at hc
        · exact Or.inr (List.mem_cons_of_mem _ hc)
        · next hb =>
          rcases List.mem_cons.mp hc with h | h
          · exact Or.inl ⟨h, hb⟩
          · exact Or.inr (List.mem_cons_of_mem _ h)
      · rcases List.mem_cons.mp hc with h | h
        · exact Or.inr (h ▸ List.mem_cons_self ..)
        · rcases ih h with h | h
          · exact Or.inl h
          · exact Or.inr (List.mem_cons_of_mem _ h)

theorem Memory.wf_write {m : Memory} (h : Memory.wf m) (a : Nat) (b : Byte) : Memory.wf (Memory.write m a b) := by
  refine ⟨?_, fun c hc => ?_⟩
  · induction m with
    | nil => by_cases hb : b = Config.unwrittenByte <;> simp [Memory.write, hb]
    | cons d t ih =>
      obtain ⟨k, x⟩ := d
      have hlt := Memory.head_lt h
      have ht := Memory.wf_tail h
      simp only [Memory.write]
      split
      · next h1 =>
        split
        · exact h.1
        · refine List.pairwise_cons.mpr ⟨fun c hc => ?_, h.1⟩
          rcases List.mem_cons.mp hc with rfl | hc
          · exact h1
          · exact Nat.lt_trans h1 (hlt c hc)
      · next h1 =>
        split
        · next h2 =>
          subst h2
          split
          · exact ht.1
          · exact List.pairwise_cons.mpr ⟨hlt, ht.1⟩
        · next h2 =>
          refine List.pairwise_cons.mpr ⟨fun c hc => ?_, ih ht⟩
          rcases Memory.mem_write hc with ⟨rfl, -⟩ | hc
          · show k < a
            omega
          · exact hlt c hc
  · rcases Memory.mem_write hc with ⟨rfl, hb⟩ | hc
    · exact hb
    · exact h.2 c hc

theorem Memory.within_write {m : Memory} {cap : Nat} (h : Memory.within m cap) {a : Nat} (ha : a < cap) (b : Byte) :
    Memory.within (Memory.write m a b) cap := by
  intro c hc
  rcases Memory.mem_write hc with ⟨rfl, -⟩ | hc
  · exact ha
  · exact h c hc

theorem Memory.wf_writeBytes {m : Memory} (h : Memory.wf m) (a : Nat) (bs : List Byte) :
    Memory.wf (Memory.writeBytes m a bs) := by
  induction bs generalizing m a with
  | nil => exact h
  | cons b t ih => exact ih (Memory.wf_write h a b) (a + 1)

theorem Memory.within_writeBytes {m : Memory} {cap : Nat} (h : Memory.within m cap) {a : Nat} {bs : List Byte}
    (ha : a + bs.length ≤ cap) : Memory.within (Memory.writeBytes m a bs) cap := by
  induction bs generalizing m a with
  | nil => exact h
  | cons b t ih =>
    simp only [List.length_cons] at ha
    exact ih (Memory.within_write h (by omega) b) (by omega)

/-- Everything `writeBytes` does: the bytes of the list at their indices, every other byte as before. -/
theorem Memory.read_writeBytes {m : Memory} (h : Memory.wf m) (a : Nat) (bs : List Byte) (k : Nat) :
    Memory.read (Memory.writeBytes m a bs) k =
      if a ≤ k ∧ k < a + bs.length then bs.getD (k - a) 0 else Memory.read m k := by
  induction bs generalizing m a with
  | nil =>
    simp [Memory.writeBytes]
  | cons b t ih =>
    simp only [Memory.writeBytes, ih (Memory.wf_write h a b), List.length_cons]
    by_cases hk : k = a
    · subst hk
      simp [Memory.read_write_same h]
    · by_cases h1 : a + 1 ≤ k ∧ k < a + 1 + t.length
      · have h2 : a ≤ k ∧ k < a + (t.length + 1) := by omega
        obtain ⟨j, hj⟩ : ∃ j, k - a = j + 1 := ⟨k - a - 1, by omega⟩
        have hj' : k - (a + 1) = j := by omega
        rw [if_pos h1, if_pos h2, hj, hj']
        simp
      · have h2 : ¬ (a ≤ k ∧ k < a + (t.length + 1)) := by omega
        rw [if_neg h1, if_neg h2, Memory.read_write_other _ _ _ hk]

@[simp] theorem Memory.slice_length (m : Memory) (a n : Nat) : (Memory.slice m a n).length = n := by
  induction n generalizing a with
  | zero => rfl
  | succ k ih => simp [Memory.slice, ih]

@[simp] theorem Memory.slice_zero (m : Memory) (a : Nat) : Memory.slice m a 0 = [] := rfl

theorem Memory.slice_getElem (m : Memory) (a n k : Nat) (h : k < (Memory.slice m a n).length) :
    (Memory.slice m a n)[k] = Memory.read m (a + k) := by
  induction n generalizing a k with
  | zero => simp at h
  | succ j ih =>
    cases k with
    | zero => simp [Memory.slice]
    | succ i =>
      simp only [Memory.slice, List.getElem_cons_succ]
      rw [ih]
      congr 1
      omega

/-- Two slices of one length are equal when they read the same bytes. -/
theorem Memory.slice_congr {m m' : Memory} {a a' n : Nat}
    (h : ∀ k, k < n → Memory.read m (a + k) = Memory.read m' (a' + k)) :
    Memory.slice m a n = Memory.slice m' a' n := by
  refine List.ext_getElem (by simp) fun k h1 h2 => ?_
  rw [Memory.slice_getElem, Memory.slice_getElem]
  exact h k (by simpa using h1)

theorem Memory.slice_append (m : Memory) (a n k : Nat) :
    Memory.slice m a (n + k) = Memory.slice m a n ++ Memory.slice m (a + n) k := by
  induction n generalizing a with
  | zero => simp
  | succ j ih =>
    have h1 : j + 1 + k = (j + k) + 1 := by omega
    have h2 : a + (j + 1) = a + 1 + j := by omega
    rw [h1, h2]
    simp [Memory.slice, ih]

/-- What was just written is what is read back. -/
theorem Memory.slice_writeBytes_same {m : Memory} (h : Memory.wf m) (a : Nat) (bs : List Byte) :
    Memory.slice (Memory.writeBytes m a bs) a bs.length = bs := by
  refine List.ext_getElem (by simp) fun k h1 h2 => ?_
  rw [Memory.slice_getElem, Memory.read_writeBytes h, if_pos ⟨by omega, by omega⟩]
  simp [List.getD_eq_getElem?_getD, h2]

/-- In canonical form, memories that read the same are the same data. -/
theorem Memory.ext_of_wf {m m' : Memory} (h : Memory.wf m) (h' : Memory.wf m')
    (hr : ∀ a, Memory.read m a = Memory.read m' a) : m = m' := by
  induction m generalizing m' with
  | nil =>
    cases m' with
    | nil => rfl
    | cons c t =>
      have := hr c.1
      simp only [Memory.read, if_true] at this
      exact absurd this.symm (h'.2 c (List.mem_cons_self ..))
  | cons c t ih =>
    cases m' with
    | nil =>
      have := hr c.1
      simp only [Memory.read, if_true] at this
      exact absurd this (h.2 c (List.mem_cons_self ..))
    | cons c' t' =>
      have hl := Memory.head_lt h
      have hl' := Memory.head_lt h'
      have below : ∀ {k : Nat}, k < c.1 → Memory.read (c :: t) k = Config.unwrittenByte := fun hk =>
        Memory.read_of_lt fun x hx => by
          rcases List.mem_cons.mp hx with rfl | hx
          · exact hk
          · exact hk.trans (hl x hx)
      have below' : ∀ {k : Nat}, k < c'.1 → Memory.read (c' :: t') k = Config.unwrittenByte := fun hk =>
        Memory.read_of_lt fun x hx => by
          rcases List.mem_cons.mp hx with rfl | hx
          · exact hk
          · exact hk.trans (hl' x hx)
      have hk : c.1 = c'.1 := by
        rcases Nat.lt_trichotomy c.1 c'.1 with hlt | heq | hgt
        · have := hr c.1
          rw [below' hlt] at this
          simp only [Memory.read, if_true] at this
          exact absurd this (h.2 c (List.mem_cons_self ..))
        · exact heq
        · have := hr c'.1
          rw [below hgt] at this
          simp only [Memory.read, if_true] at this
          exact absurd this.symm (h'.2 c' (List.mem_cons_self ..))
      have hb : c.2 = c'.2 := by
        have := hr c.1
        simpa only [Memory.read, hk, if_true] using this
      have ht : t = t' := by
        refine ih (Memory.wf_tail h) (Memory.wf_tail h') fun a => ?_
        by_cases ha : c.1 = a
        · rw [Memory.read_of_lt (m := t) fun x hx => ha ▸ hl x hx,
            Memory.read_of_lt (m := t') fun x hx => (hk.symm.trans ha) ▸ hl' x hx]
        · have := hr a
          have ha' : c'.1 ≠ a := fun e => ha (hk.trans e)
          simpa only [Memory.read, ha, ha', if_false] using this
      rw [ht, Prod.ext hk hb]

end Sys2Proof.Machine
end

