-- ==== Sys2Proof/Laws/State.lean ====
section
/-! SUPPORT. One lemma per field of State and named update, so that no later proof unfolds a record update. -/

namespace Sys2Proof.Machine

variable (s : State)

@[simp] theorem State.setOut_params (b : List Byte) : (s.setOut b).params = s.params := rfl
@[simp] theorem State.setOut_ctrl (b : List Byte) : (s.setOut b).ctrl = s.ctrl := rfl
@[simp] theorem State.setOut_cmd (b : List Byte) : (s.setOut b).cmd = s.cmd := rfl
@[simp] theorem State.setOut_status (b : List Byte) : (s.setOut b).status = s.status := rfl
@[simp] theorem State.setOut_inLen (b : List Byte) : (s.setOut b).inLen = s.inLen := rfl
@[simp] theorem State.setOut_outLen (b : List Byte) : (s.setOut b).outLen = BitVec.ofNat 16 b.length := rfl
@[simp] theorem State.setOut_arg0 (b : List Byte) : (s.setOut b).arg0 = s.arg0 := rfl
@[simp] theorem State.setOut_arg1 (b : List Byte) : (s.setOut b).arg1 = s.arg1 := rfl
@[simp] theorem State.setOut_arg2 (b : List Byte) : (s.setOut b).arg2 = s.arg2 := rfl
@[simp] theorem State.setOut_res0 (b : List Byte) : (s.setOut b).res0 = s.res0 := rfl
@[simp] theorem State.setOut_res1 (b : List Byte) : (s.setOut b).res1 = s.res1 := rfl
@[simp] theorem State.setOut_res2 (b : List Byte) : (s.setOut b).res2 = s.res2 := rfl
@[simp] theorem State.setOut_inBuf (b : List Byte) : (s.setOut b).inBuf = s.inBuf := rfl
@[simp] theorem State.setOut_outBuf (b : List Byte) : (s.setOut b).outBuf = Memory.writeBytes s.outBuf 0 b := rfl
@[simp] theorem State.setOut_fbStore (b : List Byte) : (s.setOut b).fbStore = s.fbStore := rfl
@[simp] theorem State.setOut_fbWr (b : List Byte) : (s.setOut b).fbWr = s.fbWr := rfl
@[simp] theorem State.setOut_fbCur (b : List Byte) : (s.setOut b).fbCur = s.fbCur := rfl
@[simp] theorem State.setOut_host (b : List Byte) : (s.setOut b).host = s.host := rfl
@[simp] theorem State.setOut_response (b : List Byte) : (s.setOut b).response = s.response := rfl

@[simp] theorem State.clearOutLen_params : (s.clearOutLen).params = s.params := rfl
@[simp] theorem State.clearOutLen_ctrl : (s.clearOutLen).ctrl = s.ctrl := rfl
@[simp] theorem State.clearOutLen_cmd : (s.clearOutLen).cmd = s.cmd := rfl
@[simp] theorem State.clearOutLen_status : (s.clearOutLen).status = s.status := rfl
@[simp] theorem State.clearOutLen_inLen : (s.clearOutLen).inLen = s.inLen := rfl
@[simp] theorem State.clearOutLen_outLen : (s.clearOutLen).outLen = 0#16 := rfl
@[simp] theorem State.clearOutLen_arg0 : (s.clearOutLen).arg0 = s.arg0 := rfl
@[simp] theorem State.clearOutLen_arg1 : (s.clearOutLen).arg1 = s.arg1 := rfl
@[simp] theorem State.clearOutLen_arg2 : (s.clearOutLen).arg2 = s.arg2 := rfl
@[simp] theorem State.clearOutLen_res0 : (s.clearOutLen).res0 = s.res0 := rfl
@[simp] theorem State.clearOutLen_res1 : (s.clearOutLen).res1 = s.res1 := rfl
@[simp] theorem State.clearOutLen_res2 : (s.clearOutLen).res2 = s.res2 := rfl
@[simp] theorem State.clearOutLen_inBuf : (s.clearOutLen).inBuf = s.inBuf := rfl
@[simp] theorem State.clearOutLen_outBuf : (s.clearOutLen).outBuf = s.outBuf := rfl
@[simp] theorem State.clearOutLen_fbStore : (s.clearOutLen).fbStore = s.fbStore := rfl
@[simp] theorem State.clearOutLen_fbWr : (s.clearOutLen).fbWr = s.fbWr := rfl
@[simp] theorem State.clearOutLen_fbCur : (s.clearOutLen).fbCur = s.fbCur := rfl
@[simp] theorem State.clearOutLen_host : (s.clearOutLen).host = s.host := rfl
@[simp] theorem State.clearOutLen_response : (s.clearOutLen).response = s.response := rfl

@[simp] theorem State.setRes_params (r0 r1 r2 : Word) : (s.setRes r0 r1 r2).params = s.params := rfl
@[simp] theorem State.setRes_ctrl (r0 r1 r2 : Word) : (s.setRes r0 r1 r2).ctrl = s.ctrl := rfl
@[simp] theorem State.setRes_cmd (r0 r1 r2 : Word) : (s.setRes r0 r1 r2).cmd = s.cmd := rfl
@[simp] theorem State.setRes_status (r0 r1 r2 : Word) : (s.setRes r0 r1 r2).status = s.status := rfl
@[simp] theorem State.setRes_inLen (r0 r1 r2 : Word) : (s.setRes r0 r1 r2).inLen = s.inLen := rfl
@[simp] theorem State.setRes_outLen (r0 r1 r2 : Word) : (s.setRes r0 r1 r2).outLen = s.outLen := rfl
@[simp] theorem State.setRes_arg0 (r0 r1 r2 : Word) : (s.setRes r0 r1 r2).arg0 = s.arg0 := rfl
@[simp] theorem State.setRes_arg1 (r0 r1 r2 : Word) : (s.setRes r0 r1 r2).arg1 = s.arg1 := rfl
@[simp] theorem State.setRes_arg2 (r0 r1 r2 : Word) : (s.setRes r0 r1 r2).arg2 = s.arg2 := rfl
@[simp] theorem State.setRes_res0 (r0 r1 r2 : Word) : (s.setRes r0 r1 r2).res0 = r0 := rfl
@[simp] theorem State.setRes_res1 (r0 r1 r2 : Word) : (s.setRes r0 r1 r2).res1 = r1 := rfl
@[simp] theorem State.setRes_res2 (r0 r1 r2 : Word) : (s.setRes r0 r1 r2).res2 = r2 := rfl
@[simp] theorem State.setRes_inBuf (r0 r1 r2 : Word) : (s.setRes r0 r1 r2).inBuf = s.inBuf := rfl
@[simp] theorem State.setRes_outBuf (r0 r1 r2 : Word) : (s.setRes r0 r1 r2).outBuf = s.outBuf := rfl
@[simp] theorem State.setRes_fbStore (r0 r1 r2 : Word) : (s.setRes r0 r1 r2).fbStore = s.fbStore := rfl
@[simp] theorem State.setRes_fbWr (r0 r1 r2 : Word) : (s.setRes r0 r1 r2).fbWr = s.fbWr := rfl
@[simp] theorem State.setRes_fbCur (r0 r1 r2 : Word) : (s.setRes r0 r1 r2).fbCur = s.fbCur := rfl
@[simp] theorem State.setRes_host (r0 r1 r2 : Word) : (s.setRes r0 r1 r2).host = s.host := rfl
@[simp] theorem State.setRes_response (r0 r1 r2 : Word) : (s.setRes r0 r1 r2).response = s.response := rfl

@[simp] theorem State.finish_params (c : ResultCode) : (s.finish c).params = s.params := rfl
@[simp] theorem State.finish_ctrl (c : ResultCode) : (s.finish c).ctrl = s.ctrl := rfl
@[simp] theorem State.finish_cmd (c : ResultCode) : (s.finish c).cmd = s.cmd := rfl
@[simp] theorem State.finish_status (c : ResultCode) : (s.finish c).status = s.status.finish c := rfl
@[simp] theorem State.finish_inLen (c : ResultCode) : (s.finish c).inLen = s.inLen := rfl
@[simp] theorem State.finish_outLen (c : ResultCode) : (s.finish c).outLen = s.outLen := rfl
@[simp] theorem State.finish_arg0 (c : ResultCode) : (s.finish c).arg0 = s.arg0 := rfl
@[simp] theorem State.finish_arg1 (c : ResultCode) : (s.finish c).arg1 = s.arg1 := rfl
@[simp] theorem State.finish_arg2 (c : ResultCode) : (s.finish c).arg2 = s.arg2 := rfl
@[simp] theorem State.finish_res0 (c : ResultCode) : (s.finish c).res0 = s.res0 := rfl
@[simp] theorem State.finish_res1 (c : ResultCode) : (s.finish c).res1 = s.res1 := rfl
@[simp] theorem State.finish_res2 (c : ResultCode) : (s.finish c).res2 = s.res2 := rfl
@[simp] theorem State.finish_inBuf (c : ResultCode) : (s.finish c).inBuf = s.inBuf := rfl
@[simp] theorem State.finish_outBuf (c : ResultCode) : (s.finish c).outBuf = s.outBuf := rfl
@[simp] theorem State.finish_fbStore (c : ResultCode) : (s.finish c).fbStore = s.fbStore := rfl
@[simp] theorem State.finish_fbWr (c : ResultCode) : (s.finish c).fbWr = s.fbWr := rfl
@[simp] theorem State.finish_fbCur (c : ResultCode) : (s.finish c).fbCur = s.fbCur := rfl
@[simp] theorem State.finish_host (c : ResultCode) : (s.finish c).host = s.host := rfl
@[simp] theorem State.finish_response (c : ResultCode) : (s.finish c).response = s.response := rfl

@[simp] theorem State.raise_params (e : ResultCode) : (s.raise e).params = s.params := rfl
@[simp] theorem State.raise_ctrl (e : ResultCode) : (s.raise e).ctrl = s.ctrl := rfl
@[simp] theorem State.raise_cmd (e : ResultCode) : (s.raise e).cmd = s.cmd := rfl
@[simp] theorem State.raise_status (e : ResultCode) : (s.raise e).status = s.status.finish e := rfl
@[simp] theorem State.raise_inLen (e : ResultCode) : (s.raise e).inLen = s.inLen := rfl
@[simp] theorem State.raise_outLen (e : ResultCode) : (s.raise e).outLen = s.outLen := rfl
@[simp] theorem State.raise_arg0 (e : ResultCode) : (s.raise e).arg0 = s.arg0 := rfl
@[simp] theorem State.raise_arg1 (e : ResultCode) : (s.raise e).arg1 = s.arg1 := rfl
@[simp] theorem State.raise_arg2 (e : ResultCode) : (s.raise e).arg2 = s.arg2 := rfl
@[simp] theorem State.raise_res0 (e : ResultCode) : (s.raise e).res0 = s.res0 := rfl
@[simp] theorem State.raise_res1 (e : ResultCode) : (s.raise e).res1 = s.res1 := rfl
@[simp] theorem State.raise_res2 (e : ResultCode) : (s.raise e).res2 = s.res2 := rfl
@[simp] theorem State.raise_inBuf (e : ResultCode) : (s.raise e).inBuf = s.inBuf := rfl
@[simp] theorem State.raise_outBuf (e : ResultCode) : (s.raise e).outBuf = s.outBuf := rfl
@[simp] theorem State.raise_fbStore (e : ResultCode) : (s.raise e).fbStore = s.fbStore := rfl
@[simp] theorem State.raise_fbWr (e : ResultCode) : (s.raise e).fbWr = s.fbWr := rfl
@[simp] theorem State.raise_fbCur (e : ResultCode) : (s.raise e).fbCur = s.fbCur := rfl
@[simp] theorem State.raise_host (e : ResultCode) : (s.raise e).host = s.host := rfl
@[simp] theorem State.raise_response (e : ResultCode) : (s.raise e).response = s.response := rfl

@[simp] theorem State.writeStatus_params (v : Word) : (s.writeStatus v).params = s.params := rfl
@[simp] theorem State.writeStatus_ctrl (v : Word) : (s.writeStatus v).ctrl = s.ctrl := rfl
@[simp] theorem State.writeStatus_cmd (v : Word) : (s.writeStatus v).cmd = s.cmd := rfl
@[simp] theorem State.writeStatus_status (v : Word) : (s.writeStatus v).status = s.status.hostWrite v := rfl
@[simp] theorem State.writeStatus_inLen (v : Word) : (s.writeStatus v).inLen = s.inLen := rfl
@[simp] theorem State.writeStatus_outLen (v : Word) : (s.writeStatus v).outLen = s.outLen := rfl
@[simp] theorem State.writeStatus_arg0 (v : Word) : (s.writeStatus v).arg0 = s.arg0 := rfl
@[simp] theorem State.writeStatus_arg1 (v : Word) : (s.writeStatus v).arg1 = s.arg1 := rfl
@[simp] theorem State.writeStatus_arg2 (v : Word) : (s.writeStatus v).arg2 = s.arg2 := rfl
@[simp] theorem State.writeStatus_res0 (v : Word) : (s.writeStatus v).res0 = s.res0 := rfl
@[simp] theorem State.writeStatus_res1 (v : Word) : (s.writeStatus v).res1 = s.res1 := rfl
@[simp] theorem State.writeStatus_res2 (v : Word) : (s.writeStatus v).res2 = s.res2 := rfl
@[simp] theorem State.writeStatus_inBuf (v : Word) : (s.writeStatus v).inBuf = s.inBuf := rfl
@[simp] theorem State.writeStatus_outBuf (v : Word) : (s.writeStatus v).outBuf = s.outBuf := rfl
@[simp] theorem State.writeStatus_fbStore (v : Word) : (s.writeStatus v).fbStore = s.fbStore := rfl
@[simp] theorem State.writeStatus_fbWr (v : Word) : (s.writeStatus v).fbWr = s.fbWr := rfl
@[simp] theorem State.writeStatus_fbCur (v : Word) : (s.writeStatus v).fbCur = s.fbCur := rfl
@[simp] theorem State.writeStatus_host (v : Word) : (s.writeStatus v).host = s.host := rfl
@[simp] theorem State.writeStatus_response (v : Word) : (s.writeStatus v).response = s.response := rfl

@[simp] theorem State.afterBusError_params : (s.afterBusError).params = s.params := rfl
@[simp] theorem State.afterBusError_ctrl : (s.afterBusError).ctrl = s.ctrl := rfl
@[simp] theorem State.afterBusError_cmd : (s.afterBusError).cmd = s.cmd := rfl
@[simp] theorem State.afterBusError_status : (s.afterBusError).status = s.status := rfl
@[simp] theorem State.afterBusError_inLen : (s.afterBusError).inLen = s.inLen := rfl
@[simp] theorem State.afterBusError_outLen : (s.afterBusError).outLen = s.outLen := rfl
@[simp] theorem State.afterBusError_arg0 : (s.afterBusError).arg0 = s.arg0 := rfl
@[simp] theorem State.afterBusError_arg1 : (s.afterBusError).arg1 = s.arg1 := rfl
@[simp] theorem State.afterBusError_arg2 : (s.afterBusError).arg2 = s.arg2 := rfl
@[simp] theorem State.afterBusError_res0 : (s.afterBusError).res0 = s.res0 := rfl
@[simp] theorem State.afterBusError_res1 : (s.afterBusError).res1 = s.res1 := rfl
@[simp] theorem State.afterBusError_res2 : (s.afterBusError).res2 = s.res2 := rfl
@[simp] theorem State.afterBusError_inBuf : (s.afterBusError).inBuf = s.inBuf := rfl
@[simp] theorem State.afterBusError_outBuf : (s.afterBusError).outBuf = s.outBuf := rfl
@[simp] theorem State.afterBusError_fbStore : (s.afterBusError).fbStore = s.fbStore := rfl
@[simp] theorem State.afterBusError_fbWr : (s.afterBusError).fbWr = s.fbWr := rfl
@[simp] theorem State.afterBusError_fbCur : (s.afterBusError).fbCur = s.fbCur := rfl
@[simp] theorem State.afterBusError_host : (s.afterBusError).host = s.host.tail := rfl
@[simp] theorem State.afterBusError_response : (s.afterBusError).response = .busError := rfl

@[simp] theorem State.appendToStore_params (m : List Byte) : (s.appendToStore m).params = s.params := rfl
@[simp] theorem State.appendToStore_ctrl (m : List Byte) : (s.appendToStore m).ctrl = s.ctrl := rfl
@[simp] theorem State.appendToStore_cmd (m : List Byte) : (s.appendToStore m).cmd = s.cmd := rfl
@[simp] theorem State.appendToStore_status (m : List Byte) : (s.appendToStore m).status = s.status := rfl
@[simp] theorem State.appendToStore_inLen (m : List Byte) : (s.appendToStore m).inLen = s.inLen := rfl
@[simp] theorem State.appendToStore_outLen (m : List Byte) : (s.appendToStore m).outLen = s.outLen := rfl
@[simp] theorem State.appendToStore_arg0 (m : List Byte) : (s.appendToStore m).arg0 = s.arg0 := rfl
@[simp] theorem State.appendToStore_arg1 (m : List Byte) : (s.appendToStore m).arg1 = s.arg1 := rfl
@[simp] theorem State.appendToStore_arg2 (m : List Byte) : (s.appendToStore m).arg2 = s.arg2 := rfl
@[simp] theorem State.appendToStore_res0 (m : List Byte) : (s.appendToStore m).res0 = s.res0 := rfl
@[simp] theorem State.appendToStore_res1 (m : List Byte) : (s.appendToStore m).res1 = s.res1 := rfl
@[simp] theorem State.appendToStore_res2 (m : List Byte) : (s.appendToStore m).res2 = s.res2 := rfl
@[simp] theorem State.appendToStore_inBuf (m : List Byte) : (s.appendToStore m).inBuf = s.inBuf := rfl
@[simp] theorem State.appendToStore_outBuf (m : List Byte) : (s.appendToStore m).outBuf = s.outBuf := rfl
@[simp] theorem State.appendToStore_fbStore (m : List Byte) : (s.appendToStore m).fbStore = Memory.writeBytes (Memory.writeBytes s.fbStore 0 s.unconsumed) (s.fbWr - s.fbCur) m := rfl
@[simp] theorem State.appendToStore_fbWr (m : List Byte) : (s.appendToStore m).fbWr = (s.fbWr - s.fbCur) + m.length := rfl
@[simp] theorem State.appendToStore_fbCur (m : List Byte) : (s.appendToStore m).fbCur = 0 := rfl
@[simp] theorem State.appendToStore_host (m : List Byte) : (s.appendToStore m).host = s.host := rfl
@[simp] theorem State.appendToStore_response (m : List Byte) : (s.appendToStore m).response = s.response := rfl

@[simp] theorem State.withFetchWord_params (nbits w : Nat) : (s.withFetchWord nbits w).params = s.params := rfl
@[simp] theorem State.withFetchWord_ctrl (nbits w : Nat) : (s.withFetchWord nbits w).ctrl = s.ctrl := rfl
@[simp] theorem State.withFetchWord_cmd (nbits w : Nat) : (s.withFetchWord nbits w).cmd = s.cmd := rfl
@[simp] theorem State.withFetchWord_status (nbits w : Nat) : (s.withFetchWord nbits w).status = s.status := rfl
@[simp] theorem State.withFetchWord_inLen (nbits w : Nat) : (s.withFetchWord nbits w).inLen = s.inLen := rfl
@[simp] theorem State.withFetchWord_outLen (nbits w : Nat) : (s.withFetchWord nbits w).outLen = s.outLen := rfl
@[simp] theorem State.withFetchWord_arg0 (nbits w : Nat) : (s.withFetchWord nbits w).arg0 = s.arg0 := rfl
@[simp] theorem State.withFetchWord_arg1 (nbits w : Nat) : (s.withFetchWord nbits w).arg1 = s.arg1 := rfl
@[simp] theorem State.withFetchWord_arg2 (nbits w : Nat) : (s.withFetchWord nbits w).arg2 = s.arg2 := rfl
@[simp] theorem State.withFetchWord_res0 (nbits w : Nat) : (s.withFetchWord nbits w).res0 = s.res0 := rfl
@[simp] theorem State.withFetchWord_res1 (nbits w : Nat) : (s.withFetchWord nbits w).res1 = s.res1 := rfl
@[simp] theorem State.withFetchWord_res2 (nbits w : Nat) : (s.withFetchWord nbits w).res2 = s.res2 := rfl
@[simp] theorem State.withFetchWord_inBuf (nbits w : Nat) : (s.withFetchWord nbits w).inBuf = s.inBuf := rfl
@[simp] theorem State.withFetchWord_outBuf (nbits w : Nat) : (s.withFetchWord nbits w).outBuf = s.outBuf := rfl
@[simp] theorem State.withFetchWord_fbStore (nbits w : Nat) : (s.withFetchWord nbits w).fbStore = s.fbStore := rfl
@[simp] theorem State.withFetchWord_fbWr (nbits w : Nat) : (s.withFetchWord nbits w).fbWr = s.fbWr := rfl
@[simp] theorem State.withFetchWord_fbCur (nbits w : Nat) : (s.withFetchWord nbits w).fbCur = s.fbCur := rfl
@[simp] theorem State.withFetchWord_host (nbits w : Nat) : (s.withFetchWord nbits w).host = .write (s.params.base + Reg.offset .cmd) 4 (tableWord nbits w) :: s.host := rfl
@[simp] theorem State.withFetchWord_response (nbits w : Nat) : (s.withFetchWord nbits w).response = s.response := rfl

@[simp] theorem Status.finish_result (st : Status) (c : ResultCode) : (st.finish c).result = c := rfl
@[simp] theorem Status.finish_err (st : Status) (c : ResultCode) : (st.finish c).err = (st.err || c.isError) := rfl
@[simp] theorem Status.hostWrite_result (st : Status) (v : Word) : (st.hostWrite v).result = st.result := rfl
@[simp] theorem Status.hostWrite_err (st : Status) (v : Word) : (st.hostWrite v).err = (st.err && !v.getLsbD 8) := rfl

end Sys2Proof.Machine
end

