-- ==== Sys2Proof/Laws/Ops.lean ====
section
/-! SUPPORT. One lemma for everything each shared operation can do: finish and raise, SetOut, SetRes, and the input check. -/

namespace Sys2Proof.Machine

variable {s t : State}

theorem OperandsKept.refl (s : State) : OperandsKept s s := ⟨rfl, rfl, rfl, rfl, rfl, rfl, rfl, fun _ => rfl, rfl, rfl⟩

theorem ResultsKept.refl (s : State) : ResultsKept s s := ⟨rfl, rfl, rfl⟩

theorem OutKept.refl (s : State) : OutKept s s := ⟨rfl, fun _ => rfl⟩

theorem StoreKept.refl (s : State) : StoreKept s s := ⟨rfl, fun _ => rfl⟩

theorem FramerKept.refl (s : State) : FramerKept s s := ⟨StoreKept.refl s, rfl⟩

/-- Everything `finish` does. -/
theorem finished_finish (h : t.status = s.status) (c : ResultCode) : Finished s (t.finish c) c :=
  ⟨rfl, by simp [ResultCode.isError, h]⟩

/-- Everything `raise` does (00_scope.md R12). -/
theorem onlyStatus_raise (s : State) (e : ResultCode) : OnlyStatus s (s.raise e) e :=
  ⟨finished_finish rfl e, ⟨rfl, rfl, rfl, rfl, rfl, rfl, rfl, fun _ => rfl, rfl, rfl⟩, ⟨rfl, rfl, rfl⟩,
    ⟨rfl, fun _ => rfl⟩, ⟨⟨rfl, fun _ => rfl⟩, rfl⟩⟩

/-- Everything `SetOut` does to OUT_BUF and OUT_LEN (00_scope.md R12). -/
theorem outIs_setOut (h : Memory.wf s.outBuf) {b : List Byte} (hb : b.length < 2 ^ 16) : OutIs s (s.setOut b) b where
  outLen := by
    simp only [State.setOut_outLen, BitVec.toNat_ofNat]
    exact Nat.mod_eq_of_lt hb
  bytes k hk := by
    rw [State.setOut_outBuf, Memory.read_writeBytes h, if_pos ⟨by omega, by omega⟩]
    simp [List.getD_eq_getElem?_getD, hk]
  rest a ha := by rw [State.setOut_outBuf, Memory.read_writeBytes h, if_neg (by omega)]

@[simp] theorem State.inBytes_length (s : State) : s.inBytes.length = s.inLen.toNat := by simp [State.inBytes]

@[simp] theorem State.unconsumed_length (s : State) : s.unconsumed.length = s.fbWr - s.fbCur := by
  simp [State.unconsumed]

theorem State.withInput_tooLong (h : s.params.inCap < s.inLen.toNat) (k : List Byte → State) :
    s.withInput k = s.raise .errIllegal := by
  simp [State.withInput, State.inputTooLong, h]

theorem State.withInput_legal (h : s.inLen.toNat ≤ s.params.inCap) (k : List Byte → State) :
    s.withInput k = k s.inBytes := by
  have h' : ¬ s.params.inCap < s.inLen.toNat := by omega
  simp [State.withInput, State.inputTooLong, h']

/-- The input check has two outcomes and no other. -/
theorem State.withInput_cases (s : State) (k : List Byte → State) :
    (s.params.inCap < s.inLen.toNat ∧ s.withInput k = s.raise .errIllegal) ∨
    (s.inLen.toNat ≤ s.params.inCap ∧ s.withInput k = k s.inBytes) := by
  rcases Nat.lt_or_ge s.params.inCap s.inLen.toNat with h | h
  · exact Or.inl ⟨h, State.withInput_tooLong h k⟩
  · exact Or.inr ⟨h, State.withInput_legal h k⟩

/-- The bounds of legal parameters, as inequalities (00_scope.md R8). -/
theorem Params.wf_bounds {p : Params} (h : p.wf = true) :
    p.base % 0x4000 = 0 ∧ p.inCap % 4 = 0 ∧ 272 ≤ p.inCap ∧ p.inCap ≤ 4096 ∧ p.inCap ≤ p.fbCap ∧ 538 ≤ p.fbCap ∧
      p.outCap % 4 = 0 ∧ p.outCap ≤ 4096 ∧ p.fbCap ≤ p.outCap ∧ p.inCap + 1 + (p.inCap + 253) / 254 + 1 ≤ p.outCap := by
  simp [Params.wf, Params.baseAligned, Params.inCapLegal, Params.fbCapLegal, Params.outCapLegal,
    Config.windowSize, Config.maxUnit, Config.maxStuffed] at h
  omega

/-- The invariant as one decidable condition. -/
theorem State.inv_iff : s.Inv ↔ (s.params.wf = true ∧ (Memory.wf s.inBuf ∧ Memory.within s.inBuf s.params.inCap) ∧
    (Memory.wf s.outBuf ∧ Memory.within s.outBuf s.params.outCap) ∧
    (Memory.wf s.fbStore ∧ Memory.within s.fbStore s.params.fbCap) ∧
    s.outLen.toNat ≤ s.params.outCap ∧ s.fbCur ≤ s.fbWr ∧ s.fbWr ≤ s.params.fbCap) :=
  ⟨fun h => ⟨h.1, ⟨h.2, h.3⟩, ⟨h.4, h.5⟩, ⟨h.6, h.7⟩, h.8, h.9, h.10⟩,
    fun ⟨h1, ⟨h2, h3⟩, ⟨h4, h5⟩, ⟨h6, h7⟩, h8, h9, h10⟩ => ⟨h1, h2, h3, h4, h5, h6, h7, h8, h9, h10⟩⟩

theorem State.Inv.setRes (h : s.Inv) (r0 r1 r2 : Word) : (s.setRes r0 r1 r2).Inv :=
  ⟨h.1, h.2, h.3, h.4, h.5, h.6, h.7, h.8, h.9, h.10⟩

theorem State.Inv.finish (h : s.Inv) (c : ResultCode) : (s.finish c).Inv :=
  ⟨h.1, h.2, h.3, h.4, h.5, h.6, h.7, h.8, h.9, h.10⟩

theorem State.Inv.raise (h : s.Inv) (e : ResultCode) : (s.raise e).Inv := h.finish e

theorem State.Inv.clearOutLen (h : s.Inv) : s.clearOutLen.Inv :=
  ⟨h.1, h.2, h.3, h.4, h.5, h.6, h.7, Nat.zero_le _, h.9, h.10⟩

/-- SetOut keeps the invariant when its bytes fit OUT_BUF (00_scope.md R13). -/
theorem State.Inv.setOut (h : s.Inv) {b : List Byte} (hb : b.length ≤ s.params.outCap) : (s.setOut b).Inv :=
  ⟨h.1, h.2, h.3, Memory.wf_writeBytes h.4 0 b, Memory.within_writeBytes h.5 (by omega), h.6, h.7,
    (by
      have hle := (Params.wf_bounds h.1).2.2.2.2.2.2.2.1
      simp only [State.setOut_outLen, State.setOut_params, BitVec.toNat_ofNat]
      have := Nat.mod_le b.length (2 ^ 16)
      omega),
    h.9, h.10⟩

theorem State.Inv.afterBusError (h : s.Inv) : s.afterBusError.Inv :=
  ⟨h.1, h.2, h.3, h.4, h.5, h.6, h.7, h.8, h.9, h.10⟩

end Sys2Proof.Machine
end

