-- ==== Sys2Proof/Laws/Codec.lean ====
section
/-! SUPPORT. The small lemmas of the checksum and stuffing definitions: one equation per case, so that proofs cite them and
do not unfold the loops. -/

namespace Sys2Proof.Machine

@[simp] theorem crc16_nil : crc16 [] = 0#16 := rfl

/-- XOROUT is zero, so the checksum is the register after the last byte. -/
theorem crc16_eq (m : List Byte) : crc16 m = m.foldl crcByte 0#16 := by simp [crc16]

theorem crc16_append (m m' : List Byte) : crc16 (m ++ m') = m'.foldl crcByte (crc16 m) := by
  simp [crc16_eq, List.foldl_append]

theorem crcShifts_add (j k : Nat) (c : Half) : crcShifts (j + k) c = crcShifts k (crcShifts j c) := by
  induction j generalizing c with
  | zero => simp [crcShifts]
  | succ i ih =>
    have : i + 1 + k = (i + k) + 1 := by omega
    rw [this]
    simp only [crcShifts]
    exact ih _

@[simp] theorem wireCrc_length (be : Bool) (c : Half) : (wireCrc be c).length = 2 := by cases be <;> rfl

theorem stuffFrom_nil (blk : List Byte) : stuffFrom blk [] = codeByte blk.length :: blk := rfl

theorem stuffFrom_delim (blk rest : List Byte) :
    stuffFrom blk (0x00#8 :: rest) = codeByte blk.length :: (blk ++ stuffFrom [] rest) := by simp [stuffFrom]

theorem stuffFrom_data {blk rest : List Byte} {x : Byte} (hx : x ≠ 0x00#8) (hb : blk.length + 1 ≠ 254) :
    stuffFrom blk (x :: rest) = stuffFrom (blk ++ [x]) rest := by simp [stuffFrom, hx, hb]

theorem stuffFrom_full {blk rest : List Byte} {x : Byte} (hx : x ≠ 0x00#8) (hb : blk.length + 1 = 254) :
    stuffFrom blk (x :: rest) = 0xFF#8 :: (blk ++ x :: (if rest = [] then [] else stuffFrom [] rest)) := by
  simp [stuffFrom, hx, hb]

@[simp] theorem unstuff_nil : unstuff [] = none := rfl

@[simp] theorem unstuffFrom_nil (f : Nat) : unstuffFrom f [] = some [] := by cases f <;> rfl

/-- The three ways one group fails, and what a good one gives (41_cobs.md R132). -/
theorem unstuffFrom_cons (f : Nat) (k : Byte) (t : List Byte) :
    unstuffFrom (f + 1) (k :: t) =
      if k = 0x00#8 ∨ t.length < k.toNat - 1 ∨ 0x00#8 ∈ t.take (k.toNat - 1) then none
      else (unstuffFrom f (t.drop (k.toNat - 1))).map fun r =>
        t.take (k.toNat - 1) ++ ((if k ≠ 0xFF#8 ∧ t.drop (k.toNat - 1) ≠ [] then [0x00#8] else []) ++ r) := by
  by_cases h1 : k = 0x00#8
  · subst h1
    simp [unstuffFrom]
  · by_cases h2 : t.length < k.toNat - 1
    · simp [unstuffFrom, h1, h2]
    · by_cases h3 : 0x00#8 ∈ t.take (k.toNat - 1)
      · simp [unstuffFrom, h1, h2, h3]
      · simp only [unstuffFrom, h1, h2, h3, if_false, or_self]
        cases unstuffFrom f (t.drop (k.toNat - 1)) <;> rfl

@[simp] theorem timestampBytes_length (ts : DWord) : (timestampBytes ts).length = 5 := rfl

@[simp] theorem header_length (ty : PacketType) (dev : Byte) (ts : DWord) (n : Nat) :
    (header ty dev ts n).length = 8 := rfl

/-- A frame is header, payload and checksum: MIN_FRAME bytes more than its payload (42_packet.md R152). -/
@[simp] theorem frameOf_length (be : Bool) (ty : PacketType) (dev : Byte) (ts : DWord) (p : List Byte) :
    (frameOf be ty dev ts p).bytes.length = 10 + p.length := by
  simp [frameOf]
  omega

end Sys2Proof.Machine
end

