-- ==== Sys2Proof/Laws/Framer.lean ====
section
/-! SUPPORT. What FirstDelim and Verify answer (43_framer.md R180, R181). -/

namespace Sys2Proof.Machine

theorem firstDelimFrom_none {st : Memory} {a n : Nat} :
    firstDelimFrom st a n = none ↔ ∀ k, k < n → Memory.read st (a + k) ≠ 0x00#8 := by
  induction n generalizing a with
  | zero => simp [firstDelimFrom]
  | succ j ih =>
    simp only [firstDelimFrom]
    split
    · next h =>
      refine ⟨fun hn => (by cases hn), fun hall => absurd h ?_⟩
      simpa using hall 0 (by omega)
    · next h =>
      rw [ih]
      refine ⟨fun hall k hk => ?_, fun hall k hk => ?_⟩
      · cases k with
        | zero => simpa using h
        | succ i =>
          have := hall i (by omega)
          rwa [show a + 1 + i = a + (i + 1) by omega] at this
      · have := hall (k + 1) (by omega)
        rwa [show a + (k + 1) = a + 1 + k by omega] at this

theorem firstDelimFrom_some {st : Memory} {a n d : Nat} (h : firstDelimFrom st a n = some d) :
    a ≤ d ∧ d < a + n ∧ Memory.read st d = 0x00#8 ∧ ∀ k, a ≤ k → k < d → Memory.read st k ≠ 0x00#8 := by
  induction n generalizing a with
  | zero => simp [firstDelimFrom] at h
  | succ j ih =>
    simp only [firstDelimFrom] at h
    split at h
    · next hz =>
      cases h
      exact ⟨Nat.le_refl _, by omega, hz, fun k h1 h2 => by omega⟩
    · next hz =>
      obtain ⟨h1, h2, h3, h4⟩ := ih h
      refine ⟨by omega, by omega, h3, fun k hk hd => ?_⟩
      rcases Nat.eq_or_lt_of_le hk with rfl | hlt
      · exact hz
      · exact h4 k hlt hd

/-- FirstDelim answers none exactly when no byte of the range is the delimiter. -/
theorem firstDelim_none {st : Memory} {a b : Nat} :
    firstDelim st a b = none ↔ ∀ k, a ≤ k → k < b → Memory.read st k ≠ 0x00#8 := by
  unfold firstDelim
  rw [firstDelimFrom_none]
  refine ⟨fun h k h1 h2 => ?_, fun h k hk => h (a + k) (by omega) (by omega)⟩
  have := h (k - a) (by omega)
  rwa [show a + (k - a) = k by omega] at this

/-- FirstDelim answers the smallest index of a delimiter in the range. -/
theorem firstDelim_some {st : Memory} {a b d : Nat} (h : firstDelim st a b = some d) :
    a ≤ d ∧ d < b ∧ Memory.read st d = 0x00#8 ∧ ∀ k, a ≤ k → k < d → Memory.read st k ≠ 0x00#8 := by
  obtain ⟨h1, h2, h3, h4⟩ := firstDelimFrom_some h
  exact ⟨h1, by omega, h3, h4⟩

@[simp] theorem storeSpan_length (st : Memory) (a b : Nat) : (storeSpan st a b).length = b - a := by simp [storeSpan]

/-- A verified span is one whose unstuffing is a frame of at least MIN_FRAME bytes with the right checksum. -/
theorem verify_some {be : Bool} {span f : List Byte} :
    verify be span = some f ↔ unstuff span = some f ∧ 10 ≤ f.length ∧ checksumMatches be f = true := by
  unfold verify
  split
  · next h => simp [h]
  · next g h =>
    by_cases h1 : g.length < Config.minFrame
    · have h1' : g.length < 10 := h1
      simp only [h1, if_true, h]
      refine ⟨fun hn => (by cases hn), fun ⟨hg, hl, _⟩ => ?_⟩
      cases hg
      omega
    · have h1' : ¬ g.length < 10 := h1
      by_cases h2 : checksumMatches be g = true
      · simp only [h1, h2, if_true, if_false, h]
        refine ⟨fun hg => ?_, fun ⟨hg, _⟩ => hg⟩
        cases hg
        exact ⟨rfl, by omega, h2⟩
      · simp only [h1, h2, if_false, h]
        refine ⟨fun hn => (by simp at hn), fun ⟨hg, _, hm⟩ => ?_⟩
        cases hg
        exact absurd hm h2

end Sys2Proof.Machine
end

