-- ==== Sys2Proof/Laws/PerInstr.lean ====
section
/-! SUPPORT. Statements about every instruction as syntax, one lemma per constructor. -/

namespace Sys2Proof.Laws.CommandWord

/-- The word of a command has its MBZ field zero and a listed OPCODE (30_encoding.md R91, R93), and its OPCODE's high nibble
names its family (R94). -/
def Statement (i : Instr) : Prop :=
  mbzField (encode i) = 0#24 ∧ opcodeField (encode i) ∈ listedOpcodes ∧ i.wellFormed = true ∧
    (opcodeField (encode i)).extractLsb' 4 4 =
      match i.family with
      | .checksumAndControl => 0#4
      | .stuffing => 1#4
      | .packetCodec => 2#4
      | .framer => 3#4

theorem nop : Statement .nop := by unfold Statement; decide
theorem crcCompute : Statement .crcCompute := by unfold Statement; decide
theorem crcVerify : Statement .crcVerify := by unfold Statement; decide
theorem cobsStuff : Statement .cobsStuff := by unfold Statement; decide
theorem cobsStuffDelim : Statement .cobsStuffDelim := by unfold Statement; decide
theorem cobsUnstuff : Statement .cobsUnstuff := by unfold Statement; decide
theorem pktEncode : Statement .pktEncode := by unfold Statement; decide
theorem pktBuild : Statement .pktBuild := by unfold Statement; decide
theorem pktDecode : Statement .pktDecode := by unfold Statement; decide
theorem fbAdd : Statement .fbAdd := by unfold Statement; decide
theorem fbExtract : Statement .fbExtract := by unfold Statement; decide
theorem fbClear : Statement .fbClear := by unfold Statement; decide
theorem fbPeek : Statement .fbPeek := by unfold Statement; decide

end Sys2Proof.Laws.CommandWord
end

