-- ==== Sys2Proof/Laws/Step.lean ====
section
/-! SUPPORT. What a step can do, said once: the host accesses that are legal, every command answers a next state, and the
cases of a step. -/

namespace Sys2Proof.Machine

theorem regAt_offset (r : Reg) : regAt (r.offset / 4) = r := by cases r <;> rfl

theorem Reg.offset_lt (r : Reg) : r.offset < 0x40 := by cases r <;> decide

theorem Reg.offset_aligned (r : Reg) : r.offset % 4 = 0 := by cases r <;> rfl

/-- The aligned 32-bit access to a register is legal (20_memory.md R63). -/
theorem checkAddress_reg (p : Params) (r : Reg) : checkAddress p (p.base + r.offset) 4 = .ok (.register r) := by
  have h1 := r.offset_lt
  have h2 : p.base ≤ p.base + r.offset ∧ p.base + r.offset < p.base + Config.windowSize := by
    refine ⟨by omega, ?_⟩
    show p.base + r.offset < p.base + 0x4000
    omega
  have h3 : p.base + r.offset - p.base = r.offset := by omega
  simp [checkAddress, h2, h3, checkAccess, locate, h1, regAt_offset, r.offset_aligned]

/-- A legal access at a register is the aligned 32-bit one at its offset. -/
theorem checkAddress_register {p : Params} {addr n : Nat} {r : Reg} (h : checkAddress p addr n = .ok (.register r)) :
    addr = p.base + r.offset ∧ n = 4 := by
  unfold checkAddress at h
  split at h
  · next hw =>
    unfold checkAccess at h
    split at h
    · cases h
    · next r' hl =>
      split at h
      · next hn =>
        cases h
        unfold locate at hl
        split at hl
        · next ho =>
          cases hl
          refine ⟨?_, hn.1⟩
          have hd : addr - p.base = 4 * ((addr - p.base) / 4) := by omega
          have hq : (addr - p.base) / 4 < 16 := by omega
          generalize (addr - p.base) / 4 = q at hd hq
          have : (regAt q).offset = 4 * q := by
            have : q = 0 ∨ q = 1 ∨ q = 2 ∨ q = 3 ∨ q = 4 ∨ q = 5 ∨ q = 6 ∨ q = 7 ∨ q = 8 ∨ q = 9 ∨ q = 10 ∨ q = 11 ∨
                q = 12 ∨ q = 13 ∨ q = 14 ∨ q = 15 := by omega
            rcases this with h | h | h | h | h | h | h | h | h | h | h | h | h | h | h | h <;> subst h <;> rfl
          omega
        · split at hl
          · cases hl
          · split at hl <;> cases hl
      · cases h
    · split at h
      · split at h <;> cases h
      · cases h
    · split at h
      · split at h <;> cases h
      · cases h
  · cases h

@[simp] theorem bytesOfWord_length (n : Nat) (v : Word) : (bytesOfWord n v).length = n := by
  induction n generalizing v with
  | zero => rfl
  | succ k ih => simp [bytesOfWord, ih]

/-- Everything a legal access can act on: a register, by the aligned 32-bit access at its offset, or a byte of IN_BUF or
OUT_BUF at its place in the window. -/
theorem checkAddress_ok_cases {p : Params} {addr n : Nat} {l : Location} (h : checkAddress p addr n = .ok l) :
    (∃ r, l = .register r ∧ addr = p.base + r.offset ∧ n = 4) ∨
    (∃ i, l = .inByte i ∧ addr = p.base + 0x1000 + i ∧ i < p.inCap) ∨
    (∃ i, l = .outByte i ∧ addr = p.base + 0x2000 + i ∧ i < p.outCap) := by
  have hl : p.base ≤ addr ∧ locate p (addr - p.base) = l ∧ l ≠ .hole := by
    unfold checkAddress at h
    split at h
    · next hw =>
      refine ⟨hw.1, ?_⟩
      unfold checkAccess at h
      split at h
      · cases h
      · next hl => split at h <;> cases h; exact ⟨hl, by simp⟩
      · next hl => split at h <;> [split at h <;> cases h; cases h]; exact ⟨hl, by simp⟩
      · next hl => split at h <;> [split at h <;> cases h; cases h]; exact ⟨hl, by simp⟩
    · cases h
  obtain ⟨hb, hl, hh⟩ := hl
  have hi : Config.inBase = 0x1000 := rfl
  have ho : Config.outBase = 0x2000 := rfl
  unfold locate at hl
  rw [hi, ho] at hl
  split at hl
  · subst hl
    exact .inl ⟨_, rfl, checkAddress_register h⟩
  · split at hl
    · exact .inr (.inl ⟨_, hl.symm, by omega, by omega⟩)
    · split at hl
      · exact .inr (.inr ⟨_, hl.symm, by omega, by omega⟩)
      · exact absurd hl.symm hh

/-- A host write to a register other than CMD stores as `writeReg` says, and that is the whole step. -/
theorem step_registerWrite {s : State} {r : Reg} {v : Word} {rest : List HostEvent} (hr : r ≠ .cmd)
    (h : s.host = .write (s.params.base + r.offset) 4 v :: rest) :
    step s = .next (({ s with host := rest, response := .written } : State).writeReg r v) := by
  unfold step stepHost
  rw [h]
  simp only [perform, hostWrite, checkAddress_reg, commitWrite]
  rw [if_neg (by simpa using hr)]
  rfl

/-- Every command answers a next state: errors are result codes (60_exceptions.md R230). -/
theorem exec_next (i : Instr) (s : State) : ∃ t, exec i s = .next t := by cases i <;> exact ⟨_, rfl⟩

theorem runCommand_next (v : Word) (s : State) : ∃ t, runCommand v s = .next t := by
  unfold runCommand
  split
  · exact exec_next _ s
  · exact ⟨_, rfl⟩

theorem commitWrite_next (l : Location) (n : Nat) (v : Word) (s : State) : ∃ t, commitWrite l n v s = .next t := by
  unfold commitWrite
  split
  · exact runCommand_next v _
  · exact ⟨_, rfl⟩

/-- Everything a step that answers a next state can have done. -/
theorem step_next_cases {s t : State} (h : step s = .next t) :
    (s.host = [] ∧ t = s) ∨
    (∃ addr n rest l, s.host = .read addr n :: rest ∧ checkAddress s.params addr n = .ok l ∧
      t = { s with host := rest, response := .data (s.readLocation l n) }) ∨
    (∃ addr n v rest l, s.host = .write addr n v :: rest ∧ checkAddress s.params addr n = .ok l ∧
      l ≠ .register .cmd ∧ t = ({ s with host := rest, response := .written } : State).writeLocation l n v) ∨
    (∃ v rest i, s.host = .write (s.params.base + 0x008) 4 v :: rest ∧ decode v = .ok i ∧
      exec i { s with host := rest, cmd := v, response := .written } = .next t) ∨
    (∃ v rest e, s.host = .write (s.params.base + 0x008) 4 v :: rest ∧ decode v = .error e ∧
      t = ({ s with host := rest, cmd := v, response := .written } : State).raise .errIllegal) ∨
    (∃ a b c rest, s.host = .reset a b c :: rest ∧ t = ({ s with host := rest } : State).afterReset a b c) := by
  unfold step stepHost at h
  split at h
  · next hh =>
    cases h
    exact Or.inl ⟨hh, rfl⟩
  · next e rest hh =>
    right
    cases e with
    | read addr n =>
      left
      simp only [perform, hostRead] at h
      split at h
      · cases h
      · next l hl =>
        cases h
        exact ⟨addr, n, rest, l, hh, hl, rfl⟩
    | write addr n v =>
      right
      simp only [perform, hostWrite] at h
      split at h
      · cases h
      · next l hl =>
        unfold commitWrite at h
        split at h
        · next hc =>
          subst hc
          obtain ⟨ha, hn⟩ := checkAddress_register hl
          subst hn
          have ha' : addr = s.params.base + 0x008 := ha
          subst ha'
          unfold runCommand at h
          split at h
          · next i hd => exact Or.inr (Or.inl ⟨v, rest, i, hh, hd, h⟩)
          · next e hd =>
            cases h
            exact Or.inr (Or.inr (Or.inl ⟨v, rest, e, hh, hd, rfl⟩))
        · next hc =>
          cases h
          exact Or.inl ⟨addr, n, v, rest, l, hh, hl, hc, rfl⟩
    | reset a b c =>
      cases h
      exact Or.inr (Or.inr (Or.inr (Or.inr ⟨a, b, c, rest, hh, rfl⟩)))

/-- A CMD write is a legal access, so the step runs what the value encodes. -/
theorem step_commandWrite {s : State} {v : Word} {rest : List HostEvent} (h : NextIsCommand s v rest) :
    step s = runCommand v { s with host := rest, cmd := v, response := .written } := by
  have hc : checkAddress s.params (s.params.base + 0x008) 4 = .ok (.register .cmd) := checkAddress_reg s.params .cmd
  unfold step stepHost
  rw [show s.host = .write (s.params.base + 0x008) 4 v :: rest from h]
  simp only [perform, hostWrite, hc]
  rfl

end Sys2Proof.Machine
end

