-- ==== Sys2Proof/Tests/Slice0.lean ====
section
/-! SUPPORT. Tests: the well-formedness smoke test, one written-out word for every command, vectors of
spec/95_test_vectors.md (their ids are in the comments), and a witness for the hypotheses of every statement. -/

namespace Sys2Proof.Tests

open Sys2Proof Sys2Proof.Machine

/-! ### Helpers -/

/-- The state after an outcome; the reset state where there is none. -/
def after (o : Host.Outcome State Fault Refusal) : State :=
  match o with
  | .next t => t
  | .fault _ => State.reset
  | .refused _ => State.reset

/-- Reset with input bytes loaded. -/
def withIn (bs : List Byte) : State :=
  { State.reset with inBuf := Memory.writeBytes [] 0 bs, inLen := BitVec.ofNat 16 bs.length }

/-- Reset with bytes in the framer. -/
def withStore (bs : List Byte) : State :=
  { State.reset with fbStore := Memory.writeBytes [] 0 bs, fbWr := bs.length }

/-- Reset with coming accesses. -/
def withHost (es : List HostEvent) : State := { State.reset with host := es }

/-- The result bytes. -/
def out (t : State) : List Byte := Memory.slice t.outBuf 0 t.outLen.toNat

/-- Packet operands: ARG0, ARG1, ARG2. -/
def withArgs (s : State) (a b c : Word) : State := { s with arg0 := a, arg1 := b, arg2 := c }

/-- Frame M, its stuffing SM and the corrupted SMb (95_test_vectors.md section 1). -/
def frameM : List Byte := [0x01, 0x00, 0x00, 0x00, 0x00, 0x00, 0x00, 0x00, 0x51, 0x18]
def stuffedM : List Byte := [0x02, 0x01, 0x01, 0x01, 0x01, 0x01, 0x01, 0x01, 0x03, 0x51, 0x18]
def frameMb : List Byte := [0x01, 0x00, 0x00, 0x00, 0x00, 0x00, 0x00, 0x00, 0x51, 0x19]
def stuffedMb : List Byte := [0x02, 0x01, 0x01, 0x01, 0x01, 0x01, 0x01, 0x01, 0x03, 0x51, 0x19]

/-! ### Well-formedness: each check refuses an ill-formed term -/

theorem test_default_params_wf : Params.default.wf = true := by decide
theorem test_smallest_params_wf : Params.wf ⟨0x4000, 272, 540, 538⟩ = true := by decide
theorem test_base_unaligned_refused : Params.wf ⟨0x2000, 2048, 4096, 4096⟩ = false := by decide
theorem test_inCap_not_multiple_refused : Params.wf ⟨0, 2046, 4096, 4096⟩ = false := by decide
theorem test_inCap_small_refused : Params.wf ⟨0, 268, 4096, 4096⟩ = false := by decide
theorem test_inCap_large_refused : Params.inCapLegal ⟨0, 4100, 4096, 4096⟩ = false := by decide
theorem test_fbCap_below_inCap_refused : Params.wf ⟨0, 2048, 4096, 2044⟩ = false := by decide
theorem test_fbCap_small_refused : Params.wf ⟨0, 272, 4096, 537⟩ = false := by decide
theorem test_outCap_not_multiple_refused : Params.wf ⟨0, 272, 541, 538⟩ = false := by decide
theorem test_outCap_large_refused : Params.wf ⟨0, 2048, 4100, 4096⟩ = false := by decide
theorem test_outCap_below_fbCap_refused : Params.wf ⟨0, 272, 536, 538⟩ = false := by decide
theorem test_outCap_short_for_stuffing_refused : Params.wf ⟨0, 4096, 4096, 4096⟩ = false := by decide
theorem test_mbz_refused : cmdWellFormed 0x00000100#32 = false := by decide
theorem test_unlisted_opcode_refused : cmdWellFormed 0x000000FF#32 = false := by decide
theorem test_command_wf : cmdWellFormed 0x00000033#32 = true := by decide

/-! ### Decode: every command's word, written bit by bit from 30_encoding.md R91 and R93 -/

theorem test_decode_nop : decode 0b00000000000000000000000000000000#32 = .ok .nop := by decide
theorem test_decode_crcCompute : decode 0b00000000000000000000000000000001#32 = .ok .crcCompute := by decide
theorem test_decode_crcVerify : decode 0b00000000000000000000000000000010#32 = .ok .crcVerify := by decide
theorem test_decode_cobsStuff : decode 0b00000000000000000000000000010000#32 = .ok .cobsStuff := by decide
theorem test_decode_cobsStuffDelim : decode 0b00000000000000000000000000010001#32 = .ok .cobsStuffDelim := by decide
theorem test_decode_cobsUnstuff : decode 0b00000000000000000000000000010010#32 = .ok .cobsUnstuff := by decide
theorem test_decode_pktEncode : decode 0b00000000000000000000000000100000#32 = .ok .pktEncode := by decide
theorem test_decode_pktBuild : decode 0b00000000000000000000000000100001#32 = .ok .pktBuild := by decide
theorem test_decode_pktDecode : decode 0b00000000000000000000000000100010#32 = .ok .pktDecode := by decide
theorem test_decode_fbAdd : decode 0b00000000000000000000000000110000#32 = .ok .fbAdd := by decide
theorem test_decode_fbExtract : decode 0b00000000000000000000000000110001#32 = .ok .fbExtract := by decide
theorem test_decode_fbClear : decode 0b00000000000000000000000000110010#32 = .ok .fbClear := by decide
theorem test_decode_fbPeek : decode 0b00000000000000000000000000110011#32 = .ok .fbPeek := by decide
/-- V-CTL-4: opcode byte 0x00 but MBZ not zero. -/
theorem test_decode_mbz : decode 0b00000000000000000000000100000000#32 = .error .mbzNotZero := by decide
/-- V-CTL-3. -/
theorem test_decode_unlisted : decode 0b00000000000000000000000011111111#32 = .error .unlistedOpcode := by decide
/-- R95: 243 OPCODE values are unlisted. -/
theorem test_unlisted_count :
    ((List.range 256).filter fun n => (opcodeMap (BitVec.ofNat 8 n)).isNone).length = 243 := by decide +kernel
theorem test_table_word_runs :
    (after (step (State.reset.withFetchWord 32 0x01))).cmd = 1#32 ∧ decodeTableWord 32 0x01 = some .crcCompute := by decide

/-! ### Vectors: at most two for each command -/

/-- V-CTL-1. -/
theorem test_nop : (after (exec .nop { State.reset with status := ⟨.errLength, true⟩ })).readReg .status = 0x100#32 := by
  decide
/-- V-CRC-1. -/
theorem test_crcCompute : (after (exec .crcCompute (withIn nineDigits))).res0 = 0x000020FE#32 := by decide +kernel
/-- V-CRC-7: IN_LEN beyond IN_CAP. -/
theorem test_crcCompute_illegal :
    (after (exec .crcCompute { State.reset with inLen := 0xFFFF#16 })).readReg .status = 0x102#32 := by decide
/-- V-CRC-4: ARG0[31:16] is ignored. -/
theorem test_crcVerify_match :
    (after (exec .crcVerify (withArgs (withIn nineDigits) 0xFFFF20FE#32 0#32 0#32))).res0 = 0x20FE0001#32 := by
  decide +kernel
/-- V-CRC-5. -/
theorem test_crcVerify_mismatch :
    (after (exec .crcVerify (withArgs (withIn nineDigits) 0x0000FE20#32 0#32 0#32))).res0 = 0x20FE0000#32 := by
  decide +kernel
/-- V-COBS-6. -/
theorem test_cobsStuff : out (after (exec .cobsStuff (withIn [0x11, 0, 0, 0]))) = [0x02, 0x11, 0x01, 0x01, 0x01] := by
  decide
/-- V-COBS-9: a full block that does not end the input. -/
theorem test_stuff_full_block :
    stuff (List.replicate 254 0x01 ++ [0x00]) = 0xFF#8 :: (List.replicate 254 0x01 ++ [0x01, 0x01]) := by decide +kernel
/-- V-COBS-13. -/
theorem test_cobsStuffDelim :
    out (after (exec .cobsStuffDelim (withIn [0x11, 0x22, 0, 0x33]))) = [0x03, 0x11, 0x22, 0x02, 0x33, 0x00] := by
  decide
/-- V-COBS-28. -/
theorem test_cobsUnstuff : out (after (exec .cobsUnstuff (withIn [0x02, 0x11, 0x01]))) = [0x11, 0x00] := by decide
/-- V-COBS-29: a trailing delimiter fails. -/
theorem test_cobsUnstuff_fails :
    (after (exec .cobsUnstuff (withIn [0x03, 0x11, 0x22, 0x00]))).readReg .status = 0x106#32 := by decide
/-- V-PKT-11. -/
theorem test_pktEncode :
    out (after (exec .pktEncode (withArgs (withIn [0x00, 0x11]) 0x100#32 0x02030405#32 0x01#32))) =
      [0x09, 0x01, 0x02, 0x04, 0x05, 0x04, 0x03, 0x02, 0x01, 0x04, 0x11, 0x04, 0x21, 0x00] := by decide +kernel
/-- V-PKT-22: device before length. -/
theorem test_pktEncode_device_first :
    (after (exec .pktEncode { State.reset with arg0 := 0x2000#32, inLen := 256#16 })).readReg .status = 0x104#32 := by
  decide
/-- V-PKT-7: the checksum high byte first. -/
theorem test_pktBuild :
    out (after (exec .pktBuild
      { withArgs (withIn [0xAA]) 0x1F01#32 0xFFFFFFFF#32 0xFF#32 with ctrl := ⟨true, false⟩ })) =
      [0x01, 0x01, 0xFC, 0xFF, 0xFF, 0xFF, 0xFF, 0xFF, 0xAA, 0xC2, 0xC0] := by decide +kernel
/-- V-PKT-21: timestamp before device. -/
theorem test_pktBuild_timestamp_first :
    (after (exec .pktBuild { State.reset with arg0 := 0x2000#32, arg2 := 0x100#32, inLen := 256#16 })).readReg .status =
      0x103#32 := by decide
/-- V-PKT-34. -/
theorem test_pktDecode :
    let t := after (exec .pktDecode (withIn [0x01, 0x02, 0x04, 0x05, 0x04, 0x03, 0x02, 0x01, 0x00, 0x11, 0x04, 0x21]))
    t.res0 = 0x100#32 ∧ t.res1 = 0x02030405#32 ∧ t.res2 = 1#32 ∧ out t = [0x00, 0x11] := by decide
/-- V-PKT-37: no version byte. -/
theorem test_pktDecode_empty : (after (exec .pktDecode State.reset)).res0 = 0x00021F02#32 := by decide
/-- R185's example, with U not empty before. -/
theorem test_fbAdd :
    let t := after (exec .fbAdd { withStore [0x07, 0x08] with
      fbCur := 1, inBuf := Memory.writeBytes [] 0 [0x00, 0x02, 0x01], inLen := 3#16 })
    t.unconsumed = [0x08, 0x00, 0x02, 0x01] ∧ t.fbCur = 0 ∧ t.res0 = 3#32 ∧ t.res1 = 4#32 := by decide
/-- V-FB-2 step 6, with the smallest capacities. -/
theorem test_fbAdd_overflow :
    (after (exec .fbAdd { State.reset with params := ⟨0, 272, 540, 538⟩, fbWr := 538, inLen := 1#16 })).readReg .status =
      0x107#32 := by decide
/-- F5: a corrupted unit, then a good one. -/
theorem test_fbExtract :
    let t := after (exec .fbExtract (withStore (0x00 :: stuffedMb ++ [0x00] ++ stuffedM ++ [0x00])))
    out t = frameM ∧ t.res0 = 25#32 ∧ t.unconsumed = [] := by decide +kernel
/-- F8: the cursor rests at the delimiter. -/
theorem test_fbExtract_none :
    let t := after (exec .fbExtract (withStore (List.replicate 10 0x11 ++ 0x00 :: stuffedM.take 5)))
    t.readReg .status = 1#32 ∧ t.res0 = 10#32 ∧ t.res1 = 6#32 ∧ t.outLen = 0#16 := by decide
/-- V-FB-3 step 5. -/
theorem test_fbClear :
    let t := after (exec .fbClear (withStore (0x00 :: stuffedM.take 5)))
    t.res0 = 6#32 ∧ t.readReg .fbLen = 0#32 := by decide
/-- V-FB-3 step 2. -/
theorem test_fbPeek :
    out (after (exec .fbPeek (withStore (0x00 :: stuffedM.take 5)))) = [0x00, 0x02, 0x01, 0x01, 0x01, 0x01] := by
  decide

/-! ### Vectors: the bus and the script -/

/-- V-CTL-2: CMD keeps the illegal value. -/
theorem test_illegal_command :
    let t := after (step (withHost [.write 0x008 4 0x134#32]))
    t.readReg .status = 0x102#32 ∧ t.readReg .cmd = 0x134#32 := by decide
/-- V-CTL-6. -/
theorem test_status_w1c :
    (after (step { withHost [.write 0x00C 4 0x100#32] with status := ⟨.errIllegal, true⟩ })).readReg .status = 2#32 := by
  decide
/-- V-CTL-7, V-CTL-8. -/
theorem test_reserved_bits :
    (after (step (withHost [.write 0x004 4 0xFFFFFFFF#32]))).readReg .ctrl = 3#32 ∧
    (after (step (withHost [.write 0x010 4 0x12345678#32]))).readReg .inLen = 0x5678#32 := by decide
/-- V-CTL-12, V-CTL-13, V-CTL-14, V-CTL-15, V-CTL-17: the bus errors. -/
theorem test_bus_errors :
    checkAddress Params.default 0x00C 1 = .error (.registerAccess 0x00C 1) ∧
    checkAddress Params.default 0x006 4 = .error (.registerAccess 0x006 4) ∧
    checkAddress Params.default 0x040 4 = .error (.unmapped 0x040) ∧
    checkAddress Params.default 0x1800 1 = .error (.unmapped 0x1800) ∧
    checkAddress Params.default 0x1001 2 = .error (.bufferAccess 0x1001 2) := by decide
/-- V-CTL-16: little-endian. -/
theorem test_little_endian_read :
    (after (step { withIn [0x11, 0x22, 0x33, 0x44] with host := [.read 0x1000 4] })).response = .data 0x44332211#32 := by
  decide
/-- V-CTL-18. -/
theorem test_little_endian_write :
    Memory.slice (after (step (withHost [.write 0x1002 2 0xBBAA#32]))).inBuf 0 5 = [0, 0, 0xAA, 0xBB, 0] := by
  decide
/-- V-CTL-19: OUT_BUF is read-only. -/
theorem test_outBuf_read_only : after (step (withHost [.write 0x2000 1 0x55#32])) = { State.reset with response := .written } := by
  decide

/-- The script after some lines. -/
def scriptEnd (o : Host.Outcome ScriptState Fault Refusal) : ScriptState :=
  match o with
  | .next h => h
  | .fault _ => ScriptState.start State.reset
  | .refused _ => ScriptState.start State.reset

/-- R101: `ldin`, `cmd` and a branch that is taken, as program P3 uses them. -/
theorem test_script_branch :
    let h := scriptEnd ((ScriptState.start State.reset).run
      [.ldin [0x03, 0x11], .cmd .cobsUnstuff, .bres .errUnstuff 1, .halt, .label 1] 3)
    h.pos = 4 ∧ h.status = .running ∧ h.lookup .st = some 0x106#32 ∧ h.issued.length = 5 := by decide

/-! ### Witnesses: each shows a concrete state and operands that meet the hypotheses of a statement together -/

theorem witness_inv_withIn : (withIn [0x11, 0x22, 0x00, 0x33]).Inv := State.inv_iff.mpr (by decide)
theorem witness_inv_empty : State.reset.Inv := State.inv_iff.mpr (by decide)

/-- ResetLeavesTheSpecifiedRegisters: a byte at index 0 and one at the last index of a short list. -/
theorem witness_reset_bytes :
    let t := after (perform (.reset [0xAB, 0xCD] [0x01] [0x02]) State.reset)
    (0 < [0xAB#8, 0xCD#8].length ∧ 1 < State.reset.params.inCap) ∧ Memory.read t.inBuf 1 = 0xCD#8 ∧
      Memory.read t.outBuf 0 = 0x01#8 ∧ Memory.read t.fbStore 0 = 0x02#8 := by decide

/-- StepKeepsTheInvariant, CommandsKeepTheirOperands and the other statements about a next state. -/
theorem witness_step_next :
    ∃ t, (withIn [0x11]).Inv ∧ step { withIn [0x11] with host := [.write 0x008 4 0x10#32] } = .next t ∧
      t.status.result = .ok := ⟨_, State.inv_iff.mpr (by decide), rfl, by decide⟩

/-- ParametersNeverChange, its second way: a host that goes on after a bus error. -/
theorem witness_carryOn : carryOn (withHost [.read 0x040 4]) = .next { State.reset with response := .busError } := rfl

/-- StepRunsTheDecodedCommand and IllegalCommandRaisesErrIllegal: a command, an MBZ bit, an unlisted opcode. -/
theorem witness_command :
    NextIsCommand (withHost [.write 0x008 4 0x33#32]) 0x33#32 [] ∧ decode 0x33#32 = .ok .fbPeek := ⟨rfl, by decide⟩
theorem witness_illegal_mbz :
    NextIsCommand (withHost [.write 0x008 4 0x100#32]) 0x100#32 [] ∧ (0x100#32 : Word).extractLsb' 8 24 ≠ 0#24 :=
  ⟨rfl, by decide⟩
theorem witness_illegal_opcode :
    NextIsCommand (withHost [.write 0x008 4 0x34#32]) 0x34#32 [] ∧ (0x34#32 : Word).extractLsb' 8 24 = 0#24 ∧
      (0x34#32 : Word).extractLsb' 0 8 ∉
        ([0x00, 0x01, 0x02, 0x10, 0x11, 0x12, 0x20, 0x21, 0x22, 0x30, 0x31, 0x32, 0x33] : List Byte) :=
  ⟨rfl, by decide, by decide⟩

/-- IdleStepChangesNothing. -/
theorem witness_idle : State.reset.host = [] := rfl

/-- OffsetMapIsTotal: both ends of every clause, no offset under two clauses. -/
theorem witness_offsets :
    locate Params.default 0x00 = .register .id ∧ locate Params.default 0x3F = .register .outCapr ∧
    locate Params.default 0x40 = .hole ∧ locate Params.default 0xFFF = .hole ∧
    locate Params.default 0x1000 = .inByte 0 ∧ locate Params.default 0x17FF = .inByte 0x7FF ∧
    locate Params.default 0x1800 = .hole ∧ locate Params.default 0x1FFF = .hole ∧
    locate Params.default 0x2000 = .outByte 0 ∧ locate Params.default 0x2FFF = .outByte 0xFFF ∧
    locate Params.default 0x3000 = .hole ∧ locate Params.default 0x3FFF = .hole := by decide

/-- IllegalAccessIsABusError and the statements about legal accesses: a legal access in each region at its last place. -/
theorem witness_legal_register : LegalAccess Params.default 0x3C 4 := ⟨by decide, by decide, by decide⟩
theorem witness_legal_in : LegalAccess Params.default 0x17FC 4 := ⟨by decide, by decide, by decide⟩
theorem witness_legal_out : LegalAccess Params.default 0x2FFE 2 := ⟨by decide, by decide, by decide⟩
theorem witness_illegal_width : ¬ LegalAccess Params.default 0x0C 1 := fun h => absurd (h.register (by decide)) (by decide)
theorem witness_illegal_hole : ¬ LegalAccess Params.default 0x40 4 := fun h => absurd (h.mapped 0 (by decide)) (by decide)
theorem witness_illegal_alignment : ¬ LegalAccess Params.default 0x1001 2 := fun h =>
  absurd (h.buffer (by decide)) (by decide)

/-- AccessOutsideTheWindowFaults: below the window and just past it. -/
theorem witness_outside :
    (0x3FFF < (⟨0x4000, 2048, 4096, 4096⟩ : Params).base) ∧ Params.default.base + 0x4000 ≤ 0x4000 := by decide

/-- OnlyHostAccessesFault. -/
theorem witness_fault : step (withHost [.read 0x040 4]) = .fault (.unmapped 0x040) := rfl

/-- ReadsAndPlainWritesHaveNoSideEffect: a read, and a write that is none of CMD and STATUS, from a state with the
invariant. -/
theorem witness_read : ∃ t, step (withHost [.read 0x030 4]) = .next t := ⟨_, rfl⟩
theorem witness_plain_write :
    ∃ t, (withHost [.write 0x1000 4 0x11223344#32]).Inv ∧ step (withHost [.write 0x1000 4 0x11223344#32]) = .next t ∧
      0x1000 ≠ State.reset.params.base + 0x008 ∧ InInBuf State.reset 0x1000 ∧ InInBuf State.reset 0x17FF :=
  ⟨_, State.inv_iff.mpr (by decide), rfl, by decide, by simp [InInBuf, State.reset, Params.default],
    by simp [InInBuf, State.reset, Params.default]⟩
theorem witness_ignored_write :
    ∃ t, (withHost [.write 0x2000 1 1#32]).Inv ∧ step (withHost [.write 0x2000 1 1#32]) = .next t ∧
      ¬ InInBuf State.reset 0x2000 ∧ 0x2000 - 0 ∉ [0x004, 0x008, 0x00C, 0x010, 0x018, 0x01C, 0x020] :=
  ⟨_, State.inv_iff.mpr (by decide), rfl, by simp [InInBuf, State.reset, Params.default], by decide⟩
/-- The five registers a host write only stores in, and STATUS. -/
theorem witness_stored_registers (v : Word) :
    ∀ o ∈ [0x004, 0x00C, 0x010, 0x018, 0x01C, 0x020],
      (withHost [.write (0 + o) 4 v]).host = .write ((withHost [.write (0 + o) 4 v]).params.base + o) 4 v :: [] :=
  fun _ _ => rfl

/-- ReadOnlyLocationsIgnoreWrites: a register of the list, the last OUT_BUF word, STATUS. -/
theorem witness_read_only :
    Reg.res0 ∈ ([.id, .outLen, .res0, .res1, .res2, .fbLen, .fbCapr, .inCapr, .outCapr] : List Reg) ∧
      (withHost [.write 0x024 4 1#32]).host = .write (State.reset.params.base + Reg.res0.offset) 4 1#32 :: [] ∧
      LegalAccess Params.default (0x2000 + 0xFFC) 4 :=
  ⟨by decide, rfl, ⟨by decide, by decide, by decide⟩⟩

/-- BufferAccessesAreLittleEndian: a write and a read of the last IN_BUF word, a read of the last OUT_BUF word. -/
theorem witness_buffer_access :
    (withHost [.write (0 + (0x1000 + 0x7FC)) 4 1#32]).Inv ∧ 0x7FC < State.reset.params.inCap ∧
      LegalAccess State.reset.params (0x1000 + 0x7FC) 4 :=
  ⟨State.inv_iff.mpr (by decide), by decide, ⟨by decide, by decide, by decide⟩⟩

/-- RegistersReadAsTheMapSays and ReservedBitsReadZeroAndIgnoreWrites: for every register. -/
theorem witness_registers (r : Reg) (v : Word) :
    (∃ s : State, s.host = .read (s.params.base + r.offset) 4 :: []) ∧
    (∃ s : State, s.host = .write (s.params.base + r.offset) 4 v :: []) :=
  ⟨⟨withHost [.read (0 + r.offset) 4], rfl⟩, ⟨withHost [.write (0 + r.offset) 4 v], rfl⟩⟩

/-- ErrIsSticky: both ways of clearing ERR. -/
theorem witness_err_cleared :
    (∃ t, step { withHost [.write 0x00C 4 0x100#32] with status := ⟨.errIllegal, true⟩ } = .next t ∧
      t.status.err = false) ∧
    (∃ t, step { withHost [.reset [] [] []] with status := ⟨.errIllegal, true⟩ } = .next t ∧ t.status.err = false) :=
  ⟨⟨_, rfl, by decide⟩, ⟨_, rfl, by decide⟩⟩

/-- ErrorsWriteOnlyStatus: a command that ends in an error. -/
theorem witness_error :
    ∃ t, exec .pktBuild { State.reset with arg0 := 3#32 } = .next t ∧ 2 ≤ t.status.result.code.toNat :=
  ⟨_, rfl, by decide⟩

/-- CommandsIgnoreUnusedArgumentBits: every ignored bit of ARG0 changed. -/
theorem witness_argument_bits :
    SameArgumentBits .pktBuild State.reset 0xFFFF00FC#32 0#32 0#32 ∧
      SameArgumentBits .crcVerify State.reset 0xFFFF0000#32 1#32 2#32 :=
  ⟨⟨fun h => (by cases h), fun _ => ⟨by decide, by decide, rfl, rfl⟩⟩,
    ⟨fun _ => by decide, fun h => (by rcases h with h | h <;> cases h)⟩⟩

/-- ExtractTerminatesAndMovesOn. -/
theorem witness_cursor : State.reset.fbCur ≤ State.reset.fbWr ∧ (0 < 5 ∧ 5 - 0 ≤ 5) := by decide

/-- OnlyFramerCommandsWriteTheFramer. -/
theorem witness_not_framer : Instr.fbPeek ≠ .fbAdd ∧ Instr.fbPeek ≠ .fbExtract ∧ Instr.fbPeek ≠ .fbClear := by decide

/-- The illegal IN_LEN clauses: one more than IN_CAP; and IN_CAP itself is legal. -/
theorem witness_inLen_bounds :
    State.reset.params.inCap < ({ State.reset with inLen := 2049#16 } : State).inLen.toNat ∧
      ({ State.reset with inLen := 2048#16 } : State).inLen.toNat ≤ State.reset.params.inCap := by decide

/-- NopOnlyReportsOk: STATUS of the example, and a value that only looks like NOP. -/
theorem witness_nop :
    ({ State.reset with status := ⟨.errLength, true⟩ } : State).readReg .status = 0x105#32 ∧
      (0x100#32 : Word).extractLsb' 0 8 = 0x00#8 ∧ (0x100#32 : Word).extractLsb' 8 24 ≠ 0#24 := by decide

/-- CrcComputePutsTheChecksumInRes0, CrcVerifyReportsTheMatch: the example's input. -/
theorem witness_nineDigits :
    (withIn nineDigits).inBytes = nineDigits ∧ (withIn nineDigits).inLen.toNat ≤ (withIn nineDigits).params.inCap ∧
      State.reset.inLen = 0#16 := by decide

/-- CobsStuffPutsOutTheStuffing and CobsStuffDelimAppendsTheDelimiter: the examples' inputs. -/
theorem witness_stuff_inputs :
    (withIn [0x11, 0x22, 0x00, 0x33]).inBytes = [0x11, 0x22, 0x00, 0x33] ∧ (withIn [0x00]).inBytes = [0x00] := by
  decide

/-- A block of 254 non-zero bytes, as CobsStuffPutsOutTheStuffing and CobsUnstuffPutsOutTheBytesOrFails take. -/
theorem witness_full_block :
    (List.replicate 254 0x01#8).length = 254 ∧ 0x00#8 ∉ List.replicate 254 0x01#8 := by
  refine ⟨List.length_replicate, fun h => ?_⟩
  exact absurd (List.eq_of_mem_replicate h) (by decide)

/-- CobsUnstuffPutsOutTheBytesOrFails: an input that fails and one that does not. -/
theorem witness_unstuff :
    unstuff (withIn [0x03, 0x11]).inBytes = none ∧ unstuff (withIn [0x02, 0x11, 0x01]).inBytes = some [0x11, 0x00] ∧
      (withIn [0x02, 0x11, 0x01]).Inv ∧ [0x11#8].length + 1 < (0x03#8).toNat :=
  ⟨by decide, by decide, State.inv_iff.mpr (by decide), by decide⟩

/-- PktBuildPutsOutTheFrame and PktEncodePutsOutTheTransmission: every operand at its largest legal value. -/
theorem witness_legal_packet :
    LegalPacket { State.reset with arg0 := 0x1F02#32, arg1 := 0xFFFFFFFF#32, arg2 := 0xFF#32, inLen := 255#16 } :=
  ⟨by decide, by decide, by decide, by decide, by decide⟩

/-- The error clauses of PacketErrors, each with the earlier checks passed. -/
theorem witness_packet_errors :
    (3#32 : Word).extractLsb' 0 2 = 3#2 ∧ 2 ^ 8 ≤ (0x100#32 : Word).toNat ∧
      31 < ((0x2000#32 : Word).extractLsb' 8 8).toNat ∧ (0x2000#32 : Word).extractLsb' 0 2 ≠ 3#2 ∧
      255 < (256#16 : Half).toNat ∧ (256#16 : Half).toNat ≤ State.reset.params.inCap := by decide

/-- PktDecodeGivesThePacketOrTheSentinel: a wrong version, a wrong length, and a good frame. -/
theorem witness_decode :
    (withIn [0x02]).inBytes.getD 0 0#8 ≠ 0x01#8 ∧ 1 ≤ (withIn [0x02]).inLen.toNat ∧
      (withIn [0x01]).inBytes.getD 0 0#8 = 0x01#8 ∧ (withIn [0x01]).inLen.toNat < 10 ∧
      (withIn frameM).inBytes = frameM ∧ 10 ≤ (withIn frameM).inLen.toNat ∧
      ((withIn frameM).inBytes.getD 1 0#8).toNat + 10 = (withIn frameM).inLen.toNat := by decide
theorem witness_decode_inv : (withIn frameM).Inv := State.inv_iff.mpr (by decide)

/-- FbAddAppendsOrRefusesWhole: one byte too many, and exactly full. -/
theorem witness_fbAdd :
    State.reset.params.fbCap < ({ State.reset with fbWr := 4096, inLen := 1#16 } : State).unconsumed.length +
        ({ State.reset with fbWr := 4096, inLen := 1#16 } : State).inLen.toNat ∧
      ({ State.reset with fbWr := 4095, inLen := 1#16 } : State).unconsumed.length +
        ({ State.reset with fbWr := 4095, inLen := 1#16 } : State).inLen.toNat ≤ State.reset.params.fbCap := by
  simp [State.reset, Params.default]
theorem witness_fbAdd_inv : ({ State.reset with fbWr := 4095, inLen := 1#16 } : State).Inv :=
  State.inv_iff.mpr (by decide)
theorem witness_fbAdd_example :
    State.reset.unconsumed = [] ∧ (withIn [0x00, 0x02, 0x01]).inBytes = [0x00, 0x02, 0x01] := by decide

/-- FbExtractReportsTheExtraction, FbClearEmptiesTheFramer, FbPeekCopiesTheUnconsumedRegion: their examples. -/
theorem witness_framer_examples :
    (withStore (0x00 :: stuffedM ++ [0x00])).extract = { frame := some frameM, cursor := 13 } ∧
      (withStore (0x00 :: stuffedM ++ [0x00])).unconsumed =
        [0x00, 0x02, 0x01, 0x01, 0x01, 0x01, 0x01, 0x01, 0x01, 0x03, 0x51, 0x18, 0x00] ∧
      State.reset.extract.frame = none ∧ (withStore (0x00 :: stuffedM.take 5)).readReg .fbLen = 6#32 ∧
      (withStore [0x00, 0x02, 0x01]).unconsumed = [0x00, 0x02, 0x01] := by decide +kernel
theorem witness_framer_inv : (withStore (0x00 :: stuffedM ++ [0x00])).Inv := State.inv_iff.mpr (by decide)

/-- CrcObeysItsLaws, WireChecksumRoundTrips, OneFlippedBitIsDetected. -/
theorem witness_crc :
    [0x01#8, 0x02#8].length = [0x03#8, 0x04#8].length ∧ wireCrc true 0x20FE#16 = [0x20#8, 0xFE#8] ∧
      wireCrc false 0x20FE#16 = [0xFE#8, 0x20#8] ∧ 8 < nineDigits.length ∧ 7 < 8 := by decide

/-- EncodedPacketsDecodeBack: the largest device identifier, timestamp and payload. -/
theorem witness_packet :
    (31#8 : Byte).toNat ≤ 31 ∧ (0xFFFFFFFFFF#64 : DWord).toNat < 2 ^ 40 ∧ (List.replicate 255 0x00#8).length ≤ 255 :=
  ⟨by decide, by decide, Nat.le_of_eq List.length_replicate⟩

/-- StuffingHasNoDelimiterAndIsShort. -/
theorem witness_unstuff_some : unstuff [0x01, 0x01] = some [0x00] ∧ 1 ≤ [0x01#8].length ∧ 0x00#8 ∉ [0x01#8] := by decide

/-- ExtractWaitsOrDiscards: nine bytes, and ten bytes with no delimiter. -/
theorem witness_wait :
    (withStore (List.replicate 9 0x11)).unconsumed.length < 10 ∧
      10 ≤ (withStore (List.replicate 10 0x11)).unconsumed.length ∧
      0x00#8 ∉ (withStore (List.replicate 10 0x11)).unconsumed := by decide
theorem witness_wait_inv :
    (withStore (List.replicate 9 0x11)).Inv ∧ (withStore (List.replicate 10 0x11)).Inv :=
  ⟨State.inv_iff.mpr (by decide), State.inv_iff.mpr (by decide)⟩

/-- ExtractTakesTheLeadingSpan. -/
theorem witness_leading :
    (withStore (stuffedM ++ [0x00])).unconsumed = stuffedM ++ 0x00#8 :: [] ∧ 0x00#8 ∉ stuffedM ∧ 10 ≤ stuffedM.length ∧
      verify (withStore (stuffedM ++ [0x00])).ctrl.crcBe stuffedM = some frameM := by decide +kernel

/-- ExtractTriesTheDelimitedCandidate: a good candidate, and a corrupted one with ten bytes or more after it. -/
theorem witness_delimited :
    (withStore (0x00 :: stuffedM ++ [0x00])).unconsumed = [] ++ 0x00#8 :: (stuffedM ++ 0x00#8 :: []) ∧
      verify false stuffedM = some frameM ∧
      (withStore (0x00 :: stuffedMb ++ [0x00])).unconsumed = [] ++ 0x00#8 :: (stuffedMb ++ 0x00#8 :: []) ∧
      verify false stuffedMb = none ∧ 0x00#8 ∉ stuffedMb ∧ 10 ≤ (stuffedMb ++ 0x00#8 :: []).length ∧
      10 ≤ (withStore (0x00 :: stuffedMb ++ [0x00])).unconsumed.length := by decide +kernel

/-- ExtractTriesTheDelimitedCandidate, its last clause: a failed candidate with fewer than ten bytes left, and one or two
delimiters among them. -/
theorem witness_short_remainder :
    (withStore (List.replicate 9 0x11 ++ [0x00, 0x05, 0x00, 0x33])).unconsumed =
        List.replicate 9 0x11 ++ 0x00#8 :: ([0x05] ++ 0x00#8 :: [0x33]) ∧
      verify false [0x05] = none ∧ ([0x05] ++ 0x00#8 :: [0x33]).length < 10 ∧
      0x00#8 :: [0x33#8] = [] ++ 0x00#8 :: [0x33#8] ∧
      0x00#8 :: [0x33#8, 0x00#8, 0x44#8] = [0x00#8, 0x33#8] ++ 0x00#8 :: [0x44#8] ∧ 0x00#8 ∉ [0x44#8] ∧
      10 ≤ (withStore (List.replicate 9 0x11 ++ [0x00, 0x05, 0x00, 0x33])).unconsumed.length := by decide
theorem witness_short_remainder_inv : (withStore (List.replicate 9 0x11 ++ [0x00, 0x05, 0x00, 0x33])).Inv :=
  State.inv_iff.mpr (by decide)

/-- ExtractTriesTheUnterminatedTail: a tail that verifies, and a short one (F6, F7). -/
theorem witness_tail :
    (withStore (0x00 :: stuffedM)).unconsumed = [] ++ 0x00#8 :: stuffedM ∧ 10 ≤ stuffedM.length ∧
      verify false stuffedM = some frameM ∧
      (withStore (0x00 :: stuffedM.take 9)).unconsumed = [] ++ 0x00#8 :: stuffedM.take 9 ∧
      (stuffedM.take 9).length < 10 ∧ 10 ≤ (withStore (0x00 :: stuffedM.take 9)).unconsumed.length := by decide +kernel

/-- FramerIsObservedOnlyThroughItsRegion: the same region at another place of the store. -/
theorem witness_same_region :
    SameButStore (withStore stuffedM) { withStore (0x55 :: stuffedM) with fbCur := 1 } ∧ (withStore stuffedM).Inv ∧
      ({ withStore (0x55 :: stuffedM) with fbCur := 1 } : State).Inv :=
  ⟨⟨rfl, rfl, rfl, rfl, rfl, rfl, rfl, rfl, rfl, rfl, rfl, rfl, rfl, rfl, by decide, rfl, rfl⟩,
    State.inv_iff.mpr (by decide), State.inv_iff.mpr (by decide)⟩

/-- DrainingIsIdempotent: a NONE that leaves a delimiter in the store. -/
theorem witness_drained :
    ∃ t, exec .fbExtract (withStore (0x00 :: stuffedM.take 10)) = .next t ∧ t.status.result = .none :=
  ⟨_, rfl, by decide⟩

/-- UnitsSharingADelimiterAreExtracted, OneTransmissionIsExtracted: good and corrupted frames and their streams. -/
theorem witness_frames : GoodFrame false frameM ∧ BadFrame false frameMb :=
  ⟨⟨frameM.take 8, by decide, by decide +kernel⟩,
    ⟨frameMb.take 8, [0x51, 0x19], by decide, by decide, by decide +kernel, by decide⟩⟩
theorem witness_streams :
    (withStore (stuffedM ++ 0x00 :: (stuffedMb ++ [0x00]))).unconsumed =
        stuff frameM ++ 0x00#8 :: (stuff frameMb ++ [0x00#8]) ∧
      (withStore (stuffedMb ++ 0x00 :: (stuffedM ++ [0x00]))).unconsumed =
        stuff frameMb ++ 0x00#8 :: (stuff frameM ++ [0x00#8]) ∧
      (withStore (stuffedM ++ 0x00 :: (stuffedM ++ [0x00]))).unconsumed =
        stuff frameM ++ 0x00#8 :: (stuff frameM ++ [0x00#8]) ∧
      (withStore (0x00 :: stuffedM ++ [0x00])).unconsumed = transmissionBytes true frameM ∧
      (withStore (stuffedM ++ [0x00])).unconsumed = transmissionBytes false frameM := by decide
theorem witness_streams_inv :
    (withStore (stuffedM ++ 0x00 :: (stuffedMb ++ [0x00]))).Inv ∧
      (withStore (stuffedMb ++ 0x00 :: (stuffedM ++ [0x00]))).Inv ∧
      (withStore (stuffedM ++ 0x00 :: (stuffedM ++ [0x00]))).Inv ∧ (withStore (stuffedM ++ [0x00])).Inv :=
  ⟨State.inv_iff.mpr (by decide), State.inv_iff.mpr (by decide), State.inv_iff.mpr (by decide),
    State.inv_iff.mpr (by decide)⟩

/-- RunOfOnesVerifiesByCoincidence: the shortest such run (F10). -/
theorem witness_ones :
    (withStore (0x00 :: (List.replicate 11 0x01 ++ [0x00]))).unconsumed =
      0x00#8 :: (List.replicate 11 0x01#8 ++ [0x00#8]) := by decide
theorem witness_ones_inv : (withStore (0x00 :: (List.replicate 11 0x01 ++ [0x00]))).Inv :=
  State.inv_iff.mpr (by decide)

/-- OutToInCopiesTheResult. -/
theorem witness_out2in :
    (ScriptState.start { State.reset with outBuf := [(0, 0x55#8)], outLen := 1#16 }).engine.Inv ∧
      (1#16 : Half).toNat ≤ State.reset.params.inCap := ⟨State.inv_iff.mpr (by decide), by decide⟩

end Sys2Proof.Tests
end

/-! SUPPORT. What reset leaves in every field and in every register, and the proof of the statement about it. -/

namespace Sys2Proof.Machine

section Fields

variable (s : State) (inBytes outBytes storeBytes : List Byte)

@[simp] theorem perform_reset :
    perform (.reset inBytes outBytes storeBytes) s = .next (s.afterReset inBytes outBytes storeBytes) := rfl

/-! The fields after reset. -/

@[simp] theorem State.afterReset_params : (s.afterReset inBytes outBytes storeBytes).params = s.params := rfl
@[simp] theorem State.afterReset_ctrl : (s.afterReset inBytes outBytes storeBytes).ctrl = ⟨false, false⟩ := rfl
@[simp] theorem State.afterReset_cmd : (s.afterReset inBytes outBytes storeBytes).cmd = 0#32 := rfl
@[simp] theorem State.afterReset_status : (s.afterReset inBytes outBytes storeBytes).status = ⟨.ok, false⟩ := rfl
@[simp] theorem State.afterReset_inLen : (s.afterReset inBytes outBytes storeBytes).inLen = 0#16 := rfl
@[simp] theorem State.afterReset_outLen : (s.afterReset inBytes outBytes storeBytes).outLen = 0#16 := rfl
@[simp] theorem State.afterReset_arg0 : (s.afterReset inBytes outBytes storeBytes).arg0 = 0#32 := rfl
@[simp] theorem State.afterReset_arg1 : (s.afterReset inBytes outBytes storeBytes).arg1 = 0#32 := rfl
@[simp] theorem State.afterReset_arg2 : (s.afterReset inBytes outBytes storeBytes).arg2 = 0#32 := rfl
@[simp] theorem State.afterReset_res0 : (s.afterReset inBytes outBytes storeBytes).res0 = 0#32 := rfl
@[simp] theorem State.afterReset_res1 : (s.afterReset inBytes outBytes storeBytes).res1 = 0#32 := rfl
@[simp] theorem State.afterReset_res2 : (s.afterReset inBytes outBytes storeBytes).res2 = 0#32 := rfl
@[simp] theorem State.afterReset_inBuf : (s.afterReset inBytes outBytes storeBytes).inBuf =
    Memory.writeBytes [] 0 (inBytes.take s.params.inCap) := rfl
@[simp] theorem State.afterReset_outBuf : (s.afterReset inBytes outBytes storeBytes).outBuf =
    Memory.writeBytes [] 0 (outBytes.take s.params.outCap) := rfl
@[simp] theorem State.afterReset_fbStore : (s.afterReset inBytes outBytes storeBytes).fbStore =
    Memory.writeBytes [] 0 (storeBytes.take s.params.fbCap) := rfl
@[simp] theorem State.afterReset_fbWr : (s.afterReset inBytes outBytes storeBytes).fbWr = 0 := rfl
@[simp] theorem State.afterReset_fbCur : (s.afterReset inBytes outBytes storeBytes).fbCur = 0 := rfl
@[simp] theorem State.afterReset_host : (s.afterReset inBytes outBytes storeBytes).host = s.host := rfl
@[simp] theorem State.afterReset_response : (s.afterReset inBytes outBytes storeBytes).response = .none := rfl

/-- Reset empties the framer (10_state.md R42). -/
@[simp] theorem State.afterReset_unconsumed : (s.afterReset inBytes outBytes storeBytes).unconsumed = [] :=
  List.eq_nil_of_length_eq_zero (by simp)

end Fields

/-! The registers that no field holds: ID and the capacities (10_state.md R23, R33). -/

@[simp] theorem State.readReg_id (s : State) : s.readReg .id = 0x4F500107#32 := rfl
@[simp] theorem State.readReg_fbCapr (s : State) : s.readReg .fbCapr = BitVec.ofNat 32 s.params.fbCap := rfl
@[simp] theorem State.readReg_inCapr (s : State) : s.readReg .inCapr = BitVec.ofNat 32 s.params.inCap := rfl
@[simp] theorem State.readReg_outCapr (s : State) : s.readReg .outCapr = BitVec.ofNat 32 s.params.outCap := rfl

/-- CTRL with both bits clear reads 0 (10_state.md R24). -/
@[simp] theorem Ctrl.toWord_clear : Ctrl.toWord ⟨false, false⟩ = 0#32 := rfl

/-- STATUS with RESULT = OK and no error recorded reads 0 (10_state.md R26). -/
@[simp] theorem Status.toWord_clear : Status.toWord ⟨.ok, false⟩ = 0#32 := rfl

/-- The registers that are not constants: every one reads 0 after reset (10_state.md R42). -/
theorem State.readReg_afterReset_zero (s : State) (inBytes outBytes storeBytes : List Byte) {r : Reg}
    (hr : r ≠ .id ∧ r ≠ .fbCapr ∧ r ≠ .inCapr ∧ r ≠ .outCapr) :
    (s.afterReset inBytes outBytes storeBytes).readReg r = 0#32 := by
  obtain ⟨hid, hfb, hin, hout⟩ := hr
  cases r with
  | id => contradiction
  | fbCapr => contradiction
  | inCapr => contradiction
  | outCapr => contradiction
  | _ => simp [State.readReg, State.fbLenWord]

/-- A buffer filled from a list reads the list's byte at every index that both the list and the capacity reach. -/
theorem Memory.read_writeBytes_take {bs : List Byte} {cap k : Nat} (hlen : k < bs.length) (hcap : k < cap) :
    Memory.read (Memory.writeBytes [] 0 (bs.take cap)) k = bs.getD k 0#8 := by
  rw [Memory.read_writeBytes Memory.wf_nil, if_pos (by simp [hlen, hcap])]
  simp [List.getD_eq_getElem?_getD, List.getElem?_take_of_lt hcap]

/-- Settles O1: the registers by `State.readReg_afterReset_zero`, the framer and the constants by the fields after reset,
the buffers by `Memory.read_writeBytes_take`. -/
theorem resetLeavesTheSpecifiedRegisters : Obligations.ResetLeavesTheSpecifiedRegisters := by
  intro s inBytes outBytes storeBytes
  refine ⟨_, perform_reset s inBytes outBytes storeBytes, ?_⟩
  simp +contextual [State.readReg_afterReset_zero, Memory.read_writeBytes_take]

end Sys2Proof.Machine

/-! SUPPORT. The host window (20_memory.md): the offset map by its ranges, the accesses that are legal in the buffers, what
a legal read or write does in a step, the byte order of a value, and the proofs of the statements about them. -/

namespace Sys2Proof.Machine

/-! ### The offset map (R61) -/

theorem offset_regAt : ∀ q < 16, (regAt q).offset = 4 * q := by decide

theorem locate_register (p : Params) {o : Nat} (h : o < 0x40) : locate p o = .register (regAt (o / 4)) := by
  simp [locate, h]

theorem locate_inByte {p : Params} {o : Nat} (hlo : 0x1000 ≤ o) (hhi : o < 0x1000 + p.inCap) :
    locate p o = .inByte (o - 0x1000) := by
  have hreg : ¬ o < 0x40 := by omega
  simp [locate, Config.inBase, hreg, hlo, hhi]

theorem locate_outByte {p : Params} {o : Nat} (hin : p.inCap ≤ 0x1000) (hlo : 0x2000 ≤ o)
    (hhi : o < 0x2000 + p.outCap) : locate p o = .outByte (o - 0x2000) := by
  have hreg : ¬ o < 0x40 := by omega
  have hbuf : ¬ (0x1000 ≤ o ∧ o < 0x1000 + p.inCap) := by omega
  simp only [locate, Config.inBase, Config.outBase, if_neg hreg, if_neg hbuf, if_pos (And.intro hlo hhi)]

/-- The offset is in none of the three ranges of the map. -/
theorem locate_hole {p : Params} {o : Nat} (hreg : 0x40 ≤ o) (hin : ¬ (0x1000 ≤ o ∧ o < 0x1000 + p.inCap))
    (hout : ¬ (0x2000 ≤ o ∧ o < 0x2000 + p.outCap)) : locate p o = .hole := by
  simp only [locate, Config.inBase, Config.outBase, if_neg (Nat.not_lt.mpr hreg), if_neg hin, if_neg hout]

/-- Settles O13: each range of the table by its own lemma; the capacities of legal parameters keep the ranges apart. -/
theorem offsetMapIsTotal : Obligations.OffsetMapIsTotal := by
  intro p o hp _
  obtain ⟨-, -, -, hin, -, -, -, hout, -⟩ := Params.wf_bounds hp
  refine ⟨fun h => ⟨regAt (o / 4), offset_regAt _ (by omega), locate_register p h⟩, fun h _ => ?_, locate_inByte,
    fun h _ => ?_, locate_outByte hin, fun h => ?_⟩
  all_goals exact locate_hole (by omega) (by omega) (by omega)

/-! ### Legal accesses of the buffers (R62, R64) -/

theorem bufferAccessLegal_iff {o n : Nat} :
    bufferAccessLegal o n = true ↔ n = 1 ∨ (n = 2 ∧ o % 2 = 0) ∨ (n = 4 ∧ o % 4 = 0) := by
  simp [bufferAccessLegal, or_assoc]

/-- An access in the window is checked at its offset (R60). -/
theorem checkAddress_window (p : Params) {o : Nat} (ho : o < 0x4000) (n : Nat) :
    checkAddress p (p.base + o) n = checkAccess p o n := by
  have hwin : p.base ≤ p.base + o ∧ p.base + o < p.base + 0x4000 := by omega
  rw [checkAddress, Config.windowSize, if_pos hwin, Nat.add_sub_cancel_left]

/-- The capacities are multiples of 4, so an aligned access that begins in IN_BUF ends in it. -/
theorem checkAddress_inByte {p : Params} (hp : p.wf = true) {i n : Nat} (hi : i < p.inCap)
    (h : LegalAccess p (0x1000 + i) n) : checkAddress p (p.base + (0x1000 + i)) n = .ok (.inByte i) := by
  obtain ⟨-, hmul, -, hin, -⟩ := Params.wf_bounds hp
  have hbuf := h.buffer (by omega)
  have hend : i + n ≤ p.inCap := by omega
  have hloc : locate p (0x1000 + i) = .inByte i := by
    rw [locate_inByte (by omega) (by omega), Nat.add_sub_cancel_left]
  rw [checkAddress_window p (by omega)]
  simp only [checkAccess, hloc, bufferAccessLegal_iff.mpr hbuf, if_true, if_pos hend]

/-- A legal access from OUT_BUF's first offset on begins inside OUT_BUF: above OUT_CAP every location is "none". -/
theorem LegalAccess.lt_outCap {p : Params} (hp : p.wf = true) {i n : Nat} (h : LegalAccess p (0x2000 + i) n) :
    i < p.outCap := by
  obtain ⟨-, -, -, hin, -⟩ := Params.wf_bounds hp
  have hbuf := h.buffer (by omega)
  have hfirst := h.mapped 0 (by omega)
  by_contra hi
  exact hfirst (locate_hole (by omega) (by omega) (by omega))

theorem checkAddress_outByte {p : Params} (hp : p.wf = true) {i n : Nat} (h : LegalAccess p (0x2000 + i) n) :
    checkAddress p (p.base + (0x2000 + i)) n = .ok (.outByte i) := by
  have hi := h.lt_outCap hp
  obtain ⟨-, -, -, hin, -, -, hmul, hout, -⟩ := Params.wf_bounds hp
  have hbuf := h.buffer (by omega)
  have hend : i + n ≤ p.outCap := by omega
  have hloc : locate p (0x2000 + i) = .outByte i := by
    rw [locate_outByte hin (by omega) (by omega), Nat.add_sub_cancel_left]
  rw [checkAddress_window p (by omega)]
  simp only [checkAccess, hloc, bufferAccessLegal_iff.mpr hbuf, if_true, if_pos hend]

/-- No legal buffer access is wider than a word. -/
theorem LegalAccess.le_four {p : Params} {o n : Nat} (h : LegalAccess p o n) (ho : 0x40 ≤ o) : n ≤ 4 := by
  have := h.buffer ho
  omega

/-! ### The byte order (R65) -/

theorem bytesOfWord_getD {n k : Nat} (h : k < n) (v : Word) :
    (bytesOfWord n v).getD k 0 = v.extractLsb' (8 * k) 8 := by
  induction n generalizing k v with
  | zero => omega
  | succ j ih =>
    cases k with
    | zero => simp [bytesOfWord, BitVec.setWidth_eq_extractLsb']
    | succ i =>
      rw [bytesOfWord, List.getD_cons_succ, ih (by omega)]
      ext b hb
      simp only [BitVec.getElem_extractLsb', BitVec.getLsbD_ushiftRight]
      congr 1
      omega

/-- Bit `j` of the assembled value is bit `j % 8` of byte `j / 8`, and 0 beyond the last byte. -/
theorem getLsbD_wordOfBytes (bs : List Byte) {j : Nat} (hj : j < 32) :
    (wordOfBytes bs).getLsbD j = (bs.getD (j / 8) 0).getLsbD (j % 8) := by
  induction bs generalizing j with
  | nil => simp [wordOfBytes]
  | cons b t ih =>
    simp only [wordOfBytes, BitVec.getLsbD_or, BitVec.getLsbD_setWidth, BitVec.getLsbD_shiftLeft]
    by_cases h8 : j < 8
    · have hq : j / 8 = 0 := by omega
      have hr : j % 8 = j := by omega
      simp [hj, h8, hq, hr]
    · have hq : j / 8 = (j - 8) / 8 + 1 := by omega
      have hr : j % 8 = (j - 8) % 8 := by omega
      have hb : b.getLsbD j = false := BitVec.getLsbD_of_ge b j (by omega)
      rw [hq, hr, List.getD_cons_succ, ← ih (by omega)]
      simp [hj, h8, hb]

theorem extractLsb'_wordOfBytes (bs : List Byte) {k : Nat} (hk : k < 4) :
    (wordOfBytes bs).extractLsb' (8 * k) 8 = bs.getD k 0 := by
  ext b hb
  rw [BitVec.getElem_extractLsb', getLsbD_wordOfBytes bs (by omega), ← BitVec.getLsbD_eq_getElem]
  congr 2
  all_goals omega

theorem wordOfBytes_lt (bs : List Byte) : (wordOfBytes bs).toNat < 2 ^ (8 * bs.length) := by
  induction bs with
  | nil => simp [wordOfBytes]
  | cons b t ih =>
    rw [wordOfBytes, BitVec.toNat_or]
    have hpow : 2 ^ (8 * (b :: t).length) = 2 ^ (8 * t.length) * 2 ^ 8 := by rw [← pow_add]; rfl
    refine Nat.or_lt_two_pow ?_ ?_
    · calc (b.setWidth 32).toNat ≤ b.toNat := (BitVec.toNat_setWidth ..).trans_le (Nat.mod_le _ _)
        _ < 2 ^ 8 := b.isLt
        _ ≤ 2 ^ (8 * (b :: t).length) := hpow ▸ Nat.le_mul_of_pos_left _ (by positivity)
    · calc (wordOfBytes t <<< 8).toNat ≤ (wordOfBytes t).toNat * 2 ^ 8 :=
            BitVec.toNat_shiftLeft.trans_le ((Nat.mod_le _ _).trans_eq (Nat.shiftLeft_eq _ _))
        _ < 2 ^ (8 * t.length) * 2 ^ 8 := Nat.mul_lt_mul_of_pos_right ih (by positivity)
        _ = 2 ^ (8 * (b :: t).length) := hpow.symm

/-- What a legal read of a buffer returns: byte `k` in bits [8k+7:8k], and zero above. -/
theorem wordOfBytes_slice (m : Memory) (a : Nat) {n : Nat} (hn : n ≤ 4) :
    (∀ k, k < n → (wordOfBytes (Memory.slice m a n)).extractLsb' (8 * k) 8 = Memory.read m (a + k)) ∧
      (wordOfBytes (Memory.slice m a n)).toNat < 2 ^ (8 * n) := by
  refine ⟨fun k hk => ?_, by simpa using wordOfBytes_lt (Memory.slice m a n)⟩
  have hlen : k < (Memory.slice m a n).length := by simpa using hk
  rw [extractLsb'_wordOfBytes _ (by omega), List.getD_eq_getElem _ _ hlen, Memory.slice_getElem]

/-! ### A legal access as a step -/

section Accesses

variable {s t : State} {addr n : Nat} {v : Word} {rest : List HostEvent} {l : Location}

theorem step_read (h : s.host = .read addr n :: rest) (hl : checkAddress s.params addr n = .ok l) :
    step s = .next { s with host := rest, response := .data (s.readLocation l n) } := by
  simp only [step, stepHost, h, perform, hostRead, hl]
  rfl

theorem step_write (h : s.host = .write addr n v :: rest) (hl : checkAddress s.params addr n = .ok l)
    (hc : l ≠ .register .cmd) :
    step s = .next (({ s with host := rest, response := .written } : State).writeLocation l n v) := by
  simp only [step, stepHost, h, perform, hostWrite, hl, commitWrite, if_neg hc]

/-- A read that is no bus error gives the host a value and changes nothing else (R68). -/
theorem step_read_next (h : s.host = .read addr n :: rest) (hs : step s = .next t) :
    ∃ v, t = { s with host := rest, response := .data v } := by
  obtain ⟨hh, -⟩ | ⟨_, _, _, l, hh, -, rfl⟩ | ⟨_, _, _, _, _, hh, -⟩ | ⟨_, _, _, hh, -⟩ | ⟨_, _, _, hh, -⟩ |
    ⟨_, _, _, _, hh, -⟩ := step_next_cases hs
  case inr.inl =>
    cases h.symm.trans hh
    exact ⟨_, rfl⟩
  all_goals cases h.symm.trans hh

/-- A write not to CMD that is no bus error stores at its location, and that is the whole step. -/
theorem step_write_next (h : s.host = .write addr n v :: rest) (hs : step s = .next t)
    (hc : addr ≠ s.params.base + 0x008) :
    ∃ l, checkAddress s.params addr n = .ok l ∧ l ≠ .register .cmd ∧
      t = ({ s with host := rest, response := .written } : State).writeLocation l n v := by
  obtain ⟨hh, -⟩ | ⟨_, _, _, _, hh, -⟩ | ⟨_, _, _, _, l, hh, hl, hne, ht⟩ | ⟨_, _, _, hh, -⟩ | ⟨_, _, _, hh, -⟩ |
    ⟨_, _, _, _, hh, -⟩ := step_next_cases hs
  case inr.inr.inl =>
    cases h.symm.trans hh
    exact ⟨l, hl, hne, ht⟩
  case inr.inr.inr.inl | inr.inr.inr.inr.inl =>
    cases h.symm.trans hh
    exact absurd rfl hc
  all_goals cases h.symm.trans hh

/-- Everything a host write of STATUS does (R66): ERR is cleared when bit 8 of the value is 1. -/
theorem step_statusWrite (h : s.host = .write (s.params.base + 0x00C) 4 v :: rest) :
    step s = .next { s with host := rest, response := .written,
                            status := { result := s.status.result, err := s.status.err && !v.getLsbD 8 } } :=
  step_registerWrite (r := .status) nofun h

end Accesses

/-! ### What a write stores, and that storing it again changes nothing -/

/-- The registers a host write leaves as they are (R66). -/
def Reg.readOnly : List Reg := [.id, .outLen, .res0, .res1, .res2, .fbLen, .fbCapr, .inCapr, .outCapr]

theorem State.writeReg_readOnly {r : Reg} (hr : r ∈ Reg.readOnly) (s : State) (v : Word) : s.writeReg r v = s := by
  simp only [Reg.readOnly, List.mem_cons, List.not_mem_nil, or_false] at hr
  rcases hr with rfl | rfl | rfl | rfl | rfl | rfl | rfl | rfl | rfl <;> rfl

theorem Reg.readOnly_of_offset {r : Reg} (h : r.offset ∉ [0x004, 0x008, 0x00C, 0x010, 0x018, 0x01C, 0x020]) :
    r ∈ Reg.readOnly := by
  revert h
  cases r <;> decide

section Stores

variable (s : State) (r : Reg) (l : Location) (n : Nat) (v : Word)

@[simp] theorem State.writeReg_params : (s.writeReg r v).params = s.params := by cases r <;> rfl
@[simp] theorem State.writeReg_host : (s.writeReg r v).host = s.host := by cases r <;> rfl
@[simp] theorem State.writeReg_response : (s.writeReg r v).response = s.response := by cases r <;> rfl

@[simp] theorem State.writeLocation_params : (s.writeLocation l n v).params = s.params := by
  cases l <;> simp [State.writeLocation]
@[simp] theorem State.writeLocation_host : (s.writeLocation l n v).host = s.host := by
  cases l <;> simp [State.writeLocation]
@[simp] theorem State.writeLocation_response : (s.writeLocation l n v).response = s.response := by
  cases l <;> simp [State.writeLocation]

theorem Status.hostWrite_idem (st : Status) : (st.hostWrite v).hostWrite v = st.hostWrite v := by
  simp [Status.hostWrite]

theorem State.writeReg_idem : (s.writeReg r v).writeReg r v = s.writeReg r v := by
  cases r with
  | status => simp only [State.writeReg, State.writeStatus, Status.hostWrite_idem]
  | _ => rfl

theorem Memory.writeBytes_idem {m : Memory} (h : Memory.wf m) (a : Nat) (bs : List Byte) :
    Memory.writeBytes (Memory.writeBytes m a bs) a bs = Memory.writeBytes m a bs := by
  have h' := Memory.wf_writeBytes h a bs
  refine Memory.ext_of_wf (Memory.wf_writeBytes h' a bs) h' fun k => ?_
  by_cases hk : a ≤ k ∧ k < a + bs.length
  · rw [Memory.read_writeBytes h', Memory.read_writeBytes h, if_pos hk, if_pos hk]
  · rw [Memory.read_writeBytes h', if_neg hk]

theorem State.writeLocation_idem (h : Memory.wf s.inBuf) :
    (s.writeLocation l n v).writeLocation l n v = s.writeLocation l n v := by
  cases l with
  | register r => exact s.writeReg_idem r v
  | inByte i => simp only [State.writeLocation, Memory.writeBytes_idem h]
  | outByte i => rfl
  | hole => rfl

end Stores

/-- A legal write at IN_BUF byte `i` stores byte `k` of the value at index `i + k` and keeps every other byte (R65). -/
theorem State.read_writeLocation_inByte {s : State} (h : Memory.wf s.inBuf) (i n : Nat) (v : Word) (a : Nat) :
    Memory.read (s.writeLocation (.inByte i) n v).inBuf a =
      if i ≤ a ∧ a < i + n then v.extractLsb' (8 * (a - i)) 8 else Memory.read s.inBuf a := by
  simp only [State.writeLocation, Memory.read_writeBytes h, bytesOfWord_length]
  split
  · exact bytesOfWord_getD (by omega) v
  · rfl

/-- A legal write at an address of IN_BUF stores in the bytes it addresses and nowhere else (R68). -/
theorem step_write_inBuf {s t : State} {addr n : Nat} {v : Word} {rest : List HostEvent} (hinv : s.Inv)
    (h : s.host = .write addr n v :: rest) (hs : step s = .next t) (hin : InInBuf s addr) :
    t = { s with host := rest, response := .written, inBuf := t.inBuf } ∧
      ∀ a, s.params.base + 0x1000 + a < addr ∨ addr + n ≤ s.params.base + 0x1000 + a →
        Memory.read t.inBuf a = Memory.read s.inBuf a := by
  obtain ⟨hlo, hhi⟩ := hin
  obtain ⟨l, hl, -, rfl⟩ := step_write_next h hs (by omega)
  obtain ⟨-, -, -, hcap, -⟩ := Params.wf_bounds hinv.paramsLegal
  obtain ⟨r, -, haddr, -⟩ | ⟨i, rfl, rfl, -⟩ | ⟨i, -, haddr, -⟩ := checkAddress_ok_cases hl
  · have := r.offset_lt
    omega
  · exact ⟨rfl, fun a ha => (State.read_writeLocation_inByte hinv.inCanonical i n v a).trans (if_neg (by omega))⟩
  · omega

/-- A legal write that is not at IN_BUF nor at a register a write stores in is ignored (R66, R68). -/
theorem step_write_ignored {s t : State} {addr n : Nat} {v : Word} {rest : List HostEvent}
    (h : s.host = .write addr n v :: rest) (hs : step s = .next t) (hin : ¬ InInBuf s addr)
    (haddr : addr - s.params.base ∉ [0x004, 0x008, 0x00C, 0x010, 0x018, 0x01C, 0x020]) :
    t = { s with host := rest, response := .written } := by
  have hc : addr ≠ s.params.base + 0x008 := by
    rintro rfl
    simp at haddr
  obtain ⟨l, hl, -, rfl⟩ := step_write_next h hs hc
  obtain ⟨r, rfl, rfl, -⟩ | ⟨i, -, rfl, hi⟩ | ⟨i, rfl, -, -⟩ := checkAddress_ok_cases hl
  · rw [Nat.add_sub_cancel_left] at haddr
    exact State.writeReg_readOnly (Reg.readOnly_of_offset haddr) _ v
  · exact absurd ⟨by omega, by omega⟩ hin
  · rfl

/-- Giving the host's list and port the values they already have changes nothing. -/
theorem State.port_eta {s : State} {rest : List HostEvent} {a : Response} (hh : s.host = rest)
    (ha : s.response = a) : { s with host := rest, response := a } = s := by
  subst hh ha
  rfl

/-- A repeated access is legal again, since no write moves the window, and it stores what is already stored (R68). -/
theorem step_write_again {s t : State} {addr n : Nat} {v : Word} {rest : List HostEvent} (hwf : Memory.wf s.inBuf)
    (h : s.host = .write addr n v :: rest) (hs : step s = .next t) (hc : addr ≠ s.params.base + 0x008) :
    step { t with host := .write addr n v :: rest } = .next t := by
  obtain ⟨l, hl, hne, ht⟩ := step_write_next h hs hc
  have hparams : t.params = s.params := ht ▸ State.writeLocation_params ..
  have hport : { t with host := rest, response := .written } = t :=
    State.port_eta (ht ▸ State.writeLocation_host ..) (ht ▸ State.writeLocation_response ..)
  have hidem : t.writeLocation l n v = t := ht ▸ State.writeLocation_idem _ l n v hwf
  rw [step_write (s := { t with host := .write addr n v :: rest }) rfl (hparams ▸ hl) hne]
  exact congrArg _ ((congrArg (State.writeLocation · l n v) hport).trans hidem)

/-! ### The statements about accesses -/

/-- Settles O19: the access is legal at IN_BUF or OUT_BUF (`checkAddress_inByte`, `checkAddress_outByte`), a write stores
the bytes of `State.read_writeLocation_inByte`, and a read returns the value of `wordOfBytes_slice`. -/
theorem bufferAccessesAreLittleEndian : Obligations.BufferAccessesAreLittleEndian := by
  intro s i n v rest hinv
  refine ⟨fun h hi hlegal => ?_, fun h hi hlegal => ?_, fun h hlegal => ?_⟩
  · have hread := State.read_writeLocation_inByte
      (s := { s with host := rest, response := .written }) hinv.inCanonical i n v
    refine ⟨_, step_write h (checkAddress_inByte hinv.paramsLegal hi hlegal) nofun, fun k hk => ?_, fun a ha => ?_, rfl⟩
    · rw [hread, if_pos (by omega), Nat.add_sub_cancel_left]
    · rw [hread, if_neg (by omega)]
  · exact ⟨_, step_read h (checkAddress_inByte hinv.paramsLegal hi hlegal),
      wordOfBytes_slice s.inBuf i (hlegal.le_four (by omega))⟩
  · exact ⟨_, step_read h (checkAddress_outByte hinv.paramsLegal hlegal),
      wordOfBytes_slice s.outBuf i (hlegal.le_four (by omega))⟩

/-- Settles O18: no write stores in a read-only register or in OUT_BUF, and STATUS by `step_statusWrite`. -/
theorem readOnlyLocationsIgnoreWrites : Obligations.ReadOnlyLocationsIgnoreWrites := by
  intro s v rest
  refine ⟨fun r hr h => ?_, fun i n hp hlegal h => step_write h (checkAddress_outByte hp hlegal) nofun, step_statusWrite⟩
  have hne : r ≠ .cmd := by rintro rfl; simp at hr
  rw [step_registerWrite hne h, State.writeReg_readOnly hr]

/-- Settles O17: reads by `step_read_next`, the storing registers by `step_registerWrite`, a write to IN_BUF or to an
ignored location by `step_write_inBuf` and `step_write_ignored`, the repeated write by `step_write_again`. -/
theorem readsAndPlainWritesHaveNoSideEffect : Obligations.ReadsAndPlainWritesHaveNoSideEffect := by
  refine ⟨fun s t addr n rest => step_read_next, fun s v rest => ⟨step_registerWrite (r := .ctrl) nofun, fun h => ?_,
      step_registerWrite (r := .arg0) nofun, step_registerWrite (r := .arg1) nofun,
      step_registerWrite (r := .arg2) nofun, step_statusWrite⟩,
    fun s t addr n v rest hinv h hs => ⟨step_write_inBuf hinv h hs, step_write_ignored h hs⟩,
    fun s t addr n v rest hinv => step_write_again hinv.inCanonical⟩
  rw [step_registerWrite (r := .inLen) nofun h, ← BitVec.setWidth_eq_extractLsb' (by decide)]
  rfl

end Sys2Proof.Machine

/-! SUPPORT. The decoder of CMD values (30_encoding.md R91 to R93): the opcode map on the listed values and on the others,
what a CMD value decodes to, what a CMD write runs, and the proof of the statement about it. -/

namespace Sys2Proof

/-! ### The opcode map (R93) -/

/-- The command the map selects has that OPCODE in its word. -/
theorem opcodeMap_of_mem_listedOpcodes {op : Byte} (h : op ∈ listedOpcodes) :
    ∃ i, opcodeMap op = some i ∧ opcodeField (encode i) = op := by
  have hmap : ∀ op ∈ listedOpcodes, (opcodeMap op).map (fun i => opcodeField (encode i)) = some op := by decide
  exact Option.map_eq_some_iff.mp (hmap op h)

theorem opcodeMap_eq_none {op : Byte} (h : op ∉ listedOpcodes) : opcodeMap op = none := by
  simp only [listedOpcodes, List.mem_cons, List.not_mem_nil, or_false, not_or, BitVec.ofNat_eq_ofNat] at h
  simp only [opcodeMap, h, if_false]

/-! ### The CMD values that decode and those that do not (R91, R92) -/

theorem mbzField_encode (i : Instr) : mbzField (encode i) = 0#24 := by cases i <;> rfl

/-- MBZ and OPCODE are the whole CMD value (R91). -/
theorem mbzField_append_opcodeField (v : Word) : mbzField v ++ opcodeField v = v :=
  (BitVec.extractLsb'_append_extractLsb'_eq_extractLsb' rfl).trans BitVec.extractLsb'_eq_self

/-- A value with MBZ zero and a listed OPCODE decodes, to the command whose word it is. -/
theorem decode_ok_of_listed {v : Word} (hmbz : mbzField v = 0#24) (hop : opcodeField v ∈ listedOpcodes) :
    ∃ i, decode v = .ok i ∧ encode i = v := by
  obtain ⟨i, hmap, hfield⟩ := opcodeMap_of_mem_listedOpcodes hop
  refine ⟨i, by simp [decode, hmbz, hmap], ?_⟩
  calc encode i = mbzField (encode i) ++ opcodeField (encode i) := (mbzField_append_opcodeField _).symm
    _ = mbzField v ++ opcodeField v := by rw [mbzField_encode, hfield, hmbz]
    _ = v := mbzField_append_opcodeField v

/-- Every other value is illegal. -/
theorem decode_error_of_illegal {v : Word} (h : mbzField v ≠ 0#24 ∨ opcodeField v ∉ listedOpcodes) :
    ∃ e, decode v = .error e := by
  by_cases hmbz : mbzField v = 0#24
  · exact ⟨.unlistedOpcode, by simp [decode, hmbz, opcodeMap_eq_none (h.resolve_left (not_not.mpr hmbz))]⟩
  · exact ⟨.mbzNotZero, by simp [decode, hmbz]⟩

end Sys2Proof

namespace Sys2Proof.Machine

theorem runCommand_of_decode_ok {v : Word} {i : Instr} (h : decode v = .ok i) (s : State) :
    runCommand v s = exec i s := by
  rw [runCommand, h]

theorem runCommand_of_decode_error {v : Word} {e : DecodeError} (h : decode v = .error e) (s : State) :
    runCommand v s = .next (s.raise .errIllegal) := by
  rw [runCommand, h]
  rfl

/-- Settles O11: the step runs the written value (`step_commandWrite`); an illegal value decodes to no command and raises
ERR_ILLEGAL, which writes only STATUS (`onlyStatus_raise`), and every other value is the word of the command run. -/
theorem illegalCommandRaisesErrIllegal : Obligations.IllegalCommandRaisesErrIllegal := by
  intro s v rest h
  rw [step_commandWrite h]
  refine ⟨fun hbad => ?_, fun hgood => ?_⟩
  · obtain ⟨e, he⟩ := decode_error_of_illegal hbad
    exact ⟨_, runCommand_of_decode_error he _, onlyStatus_raise _ _⟩
  · obtain ⟨hmbz, hop⟩ := not_or.mp hgood
    obtain ⟨i, hi, hword⟩ := decode_ok_of_listed (not_not.mp hmbz) (not_not.mp hop)
    exact ⟨i, hword, runCommand_of_decode_ok hi _⟩

end Sys2Proof.Machine

/-! SUPPORT. The checksum commands (40_crc.md): the two outcomes of a command that reads InBytes, what a command that only
sets the results keeps, the fields of CRC_VERIFY's RES0, and the proofs of the statements about them. -/

namespace Sys2Proof.Machine

/-! ### Commands that read InBytes (60_exceptions.md R224) -/

section Input

variable {i : Instr} {s : State} {k : List Byte → State}

theorem exec_tooLong (hi : exec i s = .next (s.withInput k)) (h : s.params.inCap < s.inLen.toNat) :
    ∃ t, exec i s = .next t ∧ OnlyStatus s t .errIllegal :=
  ⟨_, hi.trans (congrArg _ (State.withInput_tooLong h k)), onlyStatus_raise s _⟩

theorem exec_legal (hi : exec i s = .next (s.withInput k)) (h : s.inLen.toNat ≤ s.params.inCap) :
    exec i s = .next (k s.inBytes) :=
  hi.trans (congrArg _ (State.withInput_legal h k))

theorem State.inBytes_eq_nil (h : s.inLen = 0#16) : s.inBytes = [] :=
  List.eq_nil_of_length_eq_zero (by simp [h])

end Input

/-- A command that only sets the results and finishes leaves everything else as before. -/
theorem setRes_finish_frame (s : State) (r0 r1 r2 : Word) (c : ResultCode) :
    Finished s ((s.setRes r0 r1 r2).finish c) c ∧ OperandsKept s ((s.setRes r0 r1 r2).finish c) ∧
      OutKept s ((s.setRes r0 r1 r2).finish c) ∧ FramerKept s ((s.setRes r0 r1 r2).finish c) :=
  ⟨finished_finish (State.setRes_status ..) c, ⟨rfl, rfl, rfl, rfl, rfl, rfl, rfl, fun _ => rfl, rfl, rfl⟩,
    ⟨rfl, fun _ => rfl⟩, ⟨⟨rfl, fun _ => rfl⟩, rfl⟩⟩

/-- The check value (40_crc.md R113). -/
theorem crc16_nineDigits : crc16 nineDigits = 0x20FE#16 := by decide +kernel

/-! ### CRC_COMPUTE (R120) -/

theorem exec_crcCompute (s : State) : exec .crcCompute s =
    .next (s.withInput fun m => (s.setRes ((crc16 m).setWidth 32) 0#32 0#32).finish .ok) := rfl

/-- Settles O30: the two sides of the input check by `exec_tooLong` and `exec_legal`, the frame by `setRes_finish_frame`,
and the checksums of the empty message and of the nine digits. -/
theorem crcComputePutsTheChecksumInRes0 : Obligations.CrcComputePutsTheChecksumInRes0 := by
  refine ⟨rfl, fun s => exec_tooLong (exec_crcCompute s), fun s h => ?_⟩
  obtain ⟨hfin, hops, hout, hfb⟩ := setRes_finish_frame s ((crc16 s.inBytes).setWidth 32) 0#32 0#32 .ok
  refine ⟨_, exec_legal (exec_crcCompute s) h, hfin, hops, hout, hfb, ⟨rfl, rfl, rfl⟩, fun hlen => ?_,
    fun hdigits => ?_⟩
  · simp [State.inBytes_eq_nil hlen]
  · simp [hdigits, crc16_nineDigits]

/-! ### CRC_VERIFY (R121) -/

theorem exec_crcVerify (s : State) : exec .crcVerify s =
    .next (s.withInput fun m => (s.setRes (verifyResult (crc16 m) s.expected) 0#32 0#32).finish .ok) := rfl

/-- The match is in bit 0 and the checksum begins at bit 16; every other bit is zero. -/
theorem getLsbD_verifyResult (c e : Half) (j : Nat) :
    (verifyResult c e).getLsbD j = (decide (16 ≤ j) && c.getLsbD (j - 16) || decide (j = 0 ∧ e = c)) := by
  have hmatch : (if c = e then 1#32 else 0#32).getLsbD j = decide (j = 0 ∧ e = c) := by
    by_cases h : e = c
    · simp [h]
    · simp [h, Ne.symm h]
  have hsum : ((c.setWidth 32) <<< 16).getLsbD j = (decide (16 ≤ j) && c.getLsbD (j - 16)) := by
    by_cases h : j < 32
    · by_cases hj : 16 ≤ j <;> simp [h, hj]
    · simp [h, BitVec.getLsbD_of_ge c (j - 16) (by omega)]
  rw [verifyResult, BitVec.getLsbD_or, hsum, hmatch]

theorem verifyResult_checksum (c e : Half) : (verifyResult c e).extractLsb' 16 16 = c := by
  ext k hk
  simp [getLsbD_verifyResult, BitVec.getLsbD_eq_getElem hk]

theorem verifyResult_zeros (c e : Half) : (verifyResult c e).extractLsb' 1 15 = 0#15 := by
  ext k hk
  have h : ¬ 16 ≤ 1 + k := by omega
  simp [getLsbD_verifyResult, h]

theorem verifyResult_match (c e : Half) : (verifyResult c e).getLsbD 0 = true ↔ e = c := by
  rw [getLsbD_verifyResult]
  simp

/-- Settles O31: the two sides of the input check by `exec_tooLong` and `exec_legal`, the frame by `setRes_finish_frame`,
and RES0 by its fields (`verifyResult_checksum`, `verifyResult_zeros`, `verifyResult_match`). -/
theorem crcVerifyReportsTheMatch : Obligations.CrcVerifyReportsTheMatch := by
  refine ⟨rfl, fun s => exec_tooLong (exec_crcVerify s), fun s h => ?_⟩
  have hmatch := verifyResult_match (crc16 s.inBytes) s.expected
  obtain ⟨hfin, hops, hout, hfb⟩ := setRes_finish_frame s (verifyResult (crc16 s.inBytes) s.expected) 0#32 0#32 .ok
  refine ⟨_, exec_legal (exec_crcVerify s) h, hfin, hops, hout, hfb, rfl, rfl, verifyResult_checksum _ _,
    verifyResult_zeros _ _, hmatch, fun hlen => ?_, fun hdigits harg => ?_, fun hdigits harg => ?_⟩
  · exact hmatch.trans (by rw [State.inBytes_eq_nil hlen, crc16_nil, State.expected])
  · simp [hdigits, harg, crc16_nineDigits, verifyResult, State.expected]
  · simp [hdigits, harg, crc16_nineDigits, verifyResult, State.expected]

end Sys2Proof.Machine

/-! SUPPORT. The frame-stuff codec (41_cobs.md): the length and the bytes of Stuff, what Unstuff accepts and how long its
result is, what a command that puts bytes out and sets the results does, and the proofs of the statements about them. -/

namespace Sys2Proof.Machine

/-! ### Stuff (R130, R131, R133) -/

/-- The code byte of a block that is not full is not the delimiter. -/
theorem codeByte_ne_delim {n : Nat} (h : n < 254) : codeByte n ≠ 0x00#8 := by
  have hmod : (n + 1) % 2 ^ 8 ≠ 0 := by omega
  exact fun h0 => hmod (by simpa [codeByte] using congrArg BitVec.toNat h0)

/-- The bound of R133 for the loop, over the bytes collected and those still to come. -/
theorem stuffFrom_length_le {blk : List Byte} (d : List Byte) (hblk : blk.length < 254) :
    (stuffFrom blk d).length ≤ (blk.length + d.length) + 1 + (blk.length + d.length - 1) / 254 := by
  induction d generalizing blk with
  | nil =>
    rw [stuffFrom_nil, List.length_cons, List.length_nil]
    omega
  | cons x rest ih =>
    have hnext := ih (blk := []) (by simp)
    simp only [List.length_nil] at hnext
    by_cases hx : x = 0x00#8
    · subst hx
      simp only [stuffFrom_delim, List.length_cons, List.length_append]
      omega
    · by_cases hfull : blk.length + 1 = 254
      · rw [stuffFrom_full hx hfull]
        cases rest with
        | nil => simp
        | cons y ys =>
          simp only [List.length_cons] at hnext
          simp only [reduceCtorEq, if_false, List.length_cons, List.length_append]
          omega
      · have hlen : (blk ++ [x]).length = blk.length + 1 := by simp
        have := ih (blk := blk ++ [x]) (by omega)
        rw [stuffFrom_data hx hfull, List.length_cons]
        omega

theorem stuff_length_le (d : List Byte) : (stuff d).length ≤ d.length + 1 + (d.length - 1) / 254 := by
  simpa [stuff] using stuffFrom_length_le (blk := []) d (by simp)

theorem delim_not_mem_stuffFrom {blk : List Byte} (d : List Byte) (hblk : blk.length < 254) (h0 : 0x00#8 ∉ blk) :
    0x00#8 ∉ stuffFrom blk d := by
  induction d generalizing blk with
  | nil => simp [stuffFrom_nil, h0, (codeByte_ne_delim hblk).symm]
  | cons x rest ih =>
    have hnext : 0x00#8 ∉ stuffFrom [] rest := ih (by simp) (by simp)
    by_cases hx : x = 0x00#8
    · subst hx
      simp [stuffFrom_delim, h0, hnext, (codeByte_ne_delim hblk).symm]
    · by_cases hfull : blk.length + 1 = 254
      · rw [stuffFrom_full hx hfull]
        split <;> simp [h0, hnext, Ne.symm hx]
      · rw [stuffFrom_data hx hfull]
        exact ih (by simp; omega) (by simp [h0, Ne.symm hx])

theorem delim_not_mem_stuff (d : List Byte) : 0x00#8 ∉ stuff d := delim_not_mem_stuffFrom d (by simp) (by simp)

/-- Bytes that fill the block up to 254 and end the input: no final code byte follows. -/
theorem stuffFrom_full_block {blk d : List Byte} (hblk : blk.length < 254) (hlen : blk.length + d.length = 254)
    (h0 : 0x00#8 ∉ d) : stuffFrom blk d = 0xFF#8 :: (blk ++ d) := by
  induction d generalizing blk with
  | nil =>
    rw [List.length_nil] at hlen
    omega
  | cons x rest ih =>
    obtain ⟨hx, hrest⟩ := List.ne_and_not_mem_of_not_mem_cons h0
    simp only [List.length_cons] at hlen
    by_cases hfull : blk.length + 1 = 254
    · have hnil : rest = [] := List.eq_nil_of_length_eq_zero (by omega)
      rw [stuffFrom_full hx.symm hfull, if_pos hnil, hnil]
    · rw [stuffFrom_data hx.symm hfull, ih (by simp; omega) (by simp; omega) hrest]
      simp

theorem stuff_full_block {b : List Byte} (hlen : b.length = 254) (h0 : 0x00#8 ∉ b) : stuff b = 0xFF#8 :: b :=
  stuffFrom_full_block (by simp) (by simpa using hlen) h0

/-! ### Unstuff (R132, R133, R135) -/

/-- What one accepted group consists of: a code byte that is not the delimiter, its data bytes, and what follows. -/
theorem unstuffFrom_cons_some {f : Nat} {k : Byte} {t r : List Byte} (h : unstuffFrom (f + 1) (k :: t) = some r) :
    k ≠ 0x00#8 ∧ k.toNat - 1 ≤ t.length ∧ 0x00#8 ∉ t.take (k.toNat - 1) ∧
      ∃ r', unstuffFrom f (t.drop (k.toNat - 1)) = some r' ∧
        r = t.take (k.toNat - 1) ++ ((if k ≠ 0xFF#8 ∧ t.drop (k.toNat - 1) ≠ [] then [0x00#8] else []) ++ r') := by
  rw [unstuffFrom_cons] at h
  split at h
  · cases h
  · next hgood =>
    rw [not_or, not_or] at hgood
    obtain ⟨hk, hlen, hdata⟩ := hgood
    obtain ⟨r', hr', rfl⟩ := Option.map_eq_some_iff.mp h
    exact ⟨hk, Nat.le_of_not_lt hlen, hdata, r', hr', rfl⟩

/-- A group whose data bytes are `g`: it is accepted, and the bytes after it decide the rest. -/
theorem unstuffFrom_group {k : Byte} {g : List Byte} (hk : k.toNat = g.length + 1) (h0 : 0x00#8 ∉ g) (f : Nat)
    (t : List Byte) : unstuffFrom (f + 1) (k :: (g ++ t)) =
      (unstuffFrom f t).map fun r => g ++ ((if k ≠ 0xFF#8 ∧ t ≠ [] then [0x00#8] else []) ++ r) := by
  have hk0 : k ≠ 0x00#8 := by
    rintro rfl
    simp at hk
  have hlen : k.toNat - 1 = g.length := by omega
  rw [unstuffFrom_cons, hlen, List.take_left, List.drop_left, if_neg]
  simp [hk0, h0]

theorem delim_not_mem_of_unstuffFrom {f : Nat} {s r : List Byte} (h : unstuffFrom f s = some r) : 0x00#8 ∉ s := by
  induction f generalizing s r with
  | zero => cases s with
    | nil => simp
    | cons k t => cases h
  | succ f ih => cases s with
    | nil => simp
    | cons k t =>
      obtain ⟨hk, -, hdata, r', hr', -⟩ := unstuffFrom_cons_some h
      have ht : 0x00#8 ∉ t := List.take_append_drop (k.toNat - 1) t ▸ List.not_mem_append hdata (ih hr')
      exact List.not_mem_cons_of_ne_of_not_mem hk.symm ht

theorem unstuffFrom_length_le {f : Nat} {s r : List Byte} (h : unstuffFrom f s = some r) : r.length ≤ s.length - 1 := by
  induction f generalizing s r with
  | zero => cases s with
    | nil => cases h; simp
    | cons k t => cases h
  | succ f ih => cases s with
    | nil => cases h; simp
    | cons k t =>
      obtain ⟨-, hlen, -, r', hr', rfl⟩ := unstuffFrom_cons_some h
      have hrest := ih hr'
      have hpos : t.drop (k.toNat - 1) ≠ [] → 0 < (t.drop (k.toNat - 1)).length := List.length_pos_iff.mpr
      simp only [List.length_drop] at hrest hpos
      simp only [List.length_append, List.length_take, List.length_cons]
      split
      · next hzero =>
        have := hpos hzero.2
        rw [List.length_singleton]
        omega
      · rw [List.length_nil]
        omega

theorem unstuff_cons (k : Byte) (t : List Byte) : unstuff (k :: t) = unstuffFrom (t.length + 1) (k :: t) := rfl

theorem unstuff_length_le {s r : List Byte} (h : unstuff s = some r) : r.length ≤ s.length - 1 := by
  cases s with
  | nil => cases h
  | cons k t => exact unstuffFrom_length_le h

theorem unstuff_eq_none_of_delim {d : List Byte} (h : 0x00#8 ∈ d) : unstuff d = none := by
  cases d with
  | nil => rfl
  | cons k t => exact Option.eq_none_iff_forall_ne_some.mpr fun r hr => delim_not_mem_of_unstuffFrom hr h

/-- The first code byte points past the end. -/
theorem unstuff_eq_none_of_short {k : Byte} {d : List Byte} (h : d.length + 1 < k.toNat) : unstuff (k :: d) = none := by
  have hshort : d.length < k.toNat - 1 := by omega
  rw [unstuff_cons, unstuffFrom_cons, if_pos (Or.inr (Or.inl hshort))]

/-- The non-canonical form of a full block, which Stuff never produces (R135). -/
theorem unstuff_full_block {b : List Byte} (hlen : b.length = 254) (h0 : 0x00#8 ∉ b) :
    unstuff (0xFF#8 :: (b ++ [0x01#8])) = some b := by
  have hlast : unstuffFrom (b.length + 1) [0x01#8] = some [] := by
    simpa using unstuffFrom_group (k := 0x01#8) (g := []) (by simp) (by simp) b.length []
  rw [unstuff_cons, unstuffFrom_group (by simp [hlen]) h0, List.length_append, List.length_singleton, hlast]
  simp

/-! ### Commands that put bytes out (R140 to R142) -/

/-- A command that puts bytes out, sets the results and finishes: what it writes, and that the rest is as before. -/
theorem setOut_setRes_finish_frame {s : State} {b : List Byte} (h : Memory.wf s.outBuf) (hb : b.length < 2 ^ 16)
    (r0 r1 r2 : Word) (c : ResultCode) :
    Finished s (((s.setOut b).setRes r0 r1 r2).finish c) c ∧ OperandsKept s (((s.setOut b).setRes r0 r1 r2).finish c) ∧
      FramerKept s (((s.setOut b).setRes r0 r1 r2).finish c) ∧ OutIs s (((s.setOut b).setRes r0 r1 r2).finish c) b ∧
      ResultsAre (((s.setOut b).setRes r0 r1 r2).finish c) r0 r1 r2 := by
  obtain ⟨hlen, hbytes, hrest⟩ := outIs_setOut h hb
  have hstatus : ((s.setOut b).setRes r0 r1 r2).status = s.status := rfl
  exact ⟨finished_finish hstatus c, ⟨rfl, rfl, rfl, rfl, rfl, rfl, rfl, fun _ => rfl, rfl, rfl⟩,
    ⟨⟨rfl, fun _ => rfl⟩, rfl⟩, ⟨hlen, hbytes, hrest⟩, ⟨rfl, rfl, rfl⟩⟩

theorem outResult_frame {s : State} {b : List Byte} (h : Memory.wf s.outBuf) (hb : b.length < 2 ^ 16) :
    Finished s (s.outResult b) .ok ∧ OperandsKept s (s.outResult b) ∧ FramerKept s (s.outResult b) ∧
      OutIs s (s.outResult b) b ∧ ResultsAre (s.outResult b) (BitVec.ofNat 32 b.length) 0#32 0#32 :=
  setOut_setRes_finish_frame h hb _ _ _ _

/-- IN_CAP is at most 4096 (00_scope.md R8), and so is the input. -/
theorem State.Inv.inBytes_length_le {s : State} (hinv : s.Inv) (h : s.inLen.toNat ≤ s.params.inCap) :
    s.inBytes.length ≤ 4096 := by
  obtain ⟨-, -, -, hcap, -⟩ := Params.wf_bounds hinv.paramsLegal
  rw [State.inBytes_length]
  omega

theorem State.Inv.stuff_inBytes_length_lt {s : State} (hinv : s.Inv) (h : s.inLen.toNat ≤ s.params.inCap) :
    (stuff s.inBytes).length + 1 < 2 ^ 16 := by
  have := stuff_length_le s.inBytes
  have := hinv.inBytes_length_le h
  omega

theorem stuff_nil : stuff [] = [0x01] := rfl

theorem stuff_example : stuff [0x11, 0x22, 0x00, 0x33] = [0x03, 0x11, 0x22, 0x02, 0x33] := by decide

/-! ### COBS_STUFF (R140) -/

theorem exec_cobsStuff (s : State) : exec .cobsStuff s = .next (s.withInput fun d => s.outResult (stuff d)) := rfl

/-- Settles O32: the two sides of the input check by `exec_tooLong` and `exec_legal`, the frame by `outResult_frame`, and the
corner cases as values of Stuff. -/
theorem cobsStuffPutsOutTheStuffing : Obligations.CobsStuffPutsOutTheStuffing := by
  refine ⟨rfl, fun s => exec_tooLong (exec_cobsStuff s), fun s hinv h => ?_⟩
  have hlen := hinv.stuff_inBytes_length_lt h
  obtain ⟨hfin, hops, hfb, hout, hres⟩ := outResult_frame (b := stuff s.inBytes) hinv.outCanonical (by omega)
  refine ⟨_, exec_legal (exec_cobsStuff s) h, hfin, hops, hfb, hout, hres, fun hempty => ?_, fun h254 h0 => ?_,
    fun hzero => ?_, fun hex => ⟨?_, ?_⟩⟩
  · rwa [State.inBytes_eq_nil hempty, stuff_nil] at hout ⊢
  · rwa [stuff_full_block h254 h0] at hout ⊢
  · rwa [hzero] at hout ⊢
  · rwa [hex, stuff_example] at hout ⊢
  · rw [hres.res0, hex, stuff_example]
    rfl

/-! ### COBS_STUFF_DELIM (R141) -/

theorem exec_cobsStuffDelim (s : State) :
    exec .cobsStuffDelim s = .next (s.withInput fun d => s.outResult (stuff d ++ [0x00])) := rfl

/-- Settles O33: as COBS_STUFF, with the delimiter that Stuff never puts out (`delim_not_mem_stuff`) after it. -/
theorem cobsStuffDelimAppendsTheDelimiter : Obligations.CobsStuffDelimAppendsTheDelimiter := by
  refine ⟨rfl, fun s => exec_tooLong (exec_cobsStuffDelim s), fun s hinv h => ?_⟩
  have hlen := hinv.stuff_inBytes_length_lt h
  obtain ⟨hfin, hops, hfb, hout, hres⟩ :=
    outResult_frame (b := stuff s.inBytes ++ [0x00]) hinv.outCanonical (by simpa using hlen)
  rw [List.length_append] at hres
  refine ⟨_, exec_legal (exec_cobsStuffDelim s) h, hfin, hops, hfb, hout, hres, delim_not_mem_stuff _, fun hempty => ?_,
    fun hex => ⟨?_, ?_⟩⟩
  · rwa [State.inBytes_eq_nil hempty, stuff_nil] at hout ⊢
  · rwa [hex, stuff_example] at hout ⊢
  · rw [hres.res0, hex, stuff_example]
    rfl

/-! ### COBS_UNSTUFF (R142) -/

theorem exec_cobsUnstuff (s : State) :
    exec .cobsUnstuff s = .next (s.withInput fun d => s.unstuffResult (unstuff d)) := rfl

theorem State.unstuffResult_none (s : State) : s.unstuffResult none = s.raise .errUnstuff := rfl

theorem State.unstuffResult_some (s : State) (b : List Byte) : s.unstuffResult (some b) = s.outResult b := rfl

/-- Settles O34: the input check by `exec_tooLong` and `exec_legal`, the failure by `onlyStatus_raise`, the success by
`outResult_frame` with the bound `unstuff_length_le`, and what Unstuff accepts by its own lemmas. -/
theorem cobsUnstuffPutsOutTheBytesOrFails : Obligations.CobsUnstuffPutsOutTheBytesOrFails := by
  refine ⟨rfl, fun s => exec_tooLong (exec_cobsUnstuff s), fun s h hfail => ?_, fun s r hinv h hok => ?_, unstuff_nil,
    fun _ => unstuff_eq_none_of_delim, fun _ _ => unstuff_eq_none_of_short, by decide, by decide,
    fun _ => unstuff_full_block, by decide, by decide⟩
  · refine ⟨s.raise .errUnstuff, ?_, onlyStatus_raise s _⟩
    rw [exec_legal (exec_cobsUnstuff s) h, hfail, State.unstuffResult_none]
  · have hlen : r.length < 2 ^ 16 := by
      have := unstuff_length_le hok
      have := hinv.inBytes_length_le h
      omega
    refine ⟨s.outResult r, ?_, outResult_frame hinv.outCanonical hlen⟩
    rw [exec_legal (exec_cobsUnstuff s) h, hok, State.unstuffResult_some]

end Sys2Proof.Machine

/-! SUPPORT. The packet commands (42_packet.md): the checks and the frame of BuildFrame in terms of the argument registers,
the two commands that put a built frame out, the three outcomes of DecodeFrame with the fields of its registers, and the
proofs of the statements about them. -/

namespace Sys2Proof.Machine

/-! ### The operands in the argument registers (R156, R157) -/

/-- A timestamp beyond 40 bits is one with a bit above the low byte of ARG2. -/
theorem State.timestamp_tooLarge_iff (s : State) : 2 ^ Config.timestampBits ≤ s.ts.toNat ↔ 2 ^ 8 ≤ s.arg2.toNat := by
  have hlow := s.arg1.isLt
  have hts : s.ts.toNat = s.arg2.toNat * 2 ^ 32 + s.arg1.toNat := by
    rw [State.ts, BitVec.toNat_append, ← Nat.shiftLeft_add_eq_or_of_lt hlow, Nat.shiftLeft_eq]
  have hbits : Config.timestampBits = 40 := rfl
  rw [hts, hbits]
  omega

/-- The timestamp bytes are the four bytes of ARG1 and the low byte of ARG2. -/
theorem State.timestampBytes_ts (s : State) : timestampBytes s.ts =
    [s.arg1.extractLsb' 0 8, s.arg1.extractLsb' 8 8, s.arg1.extractLsb' 16 8, s.arg1.extractLsb' 24 8,
      s.arg2.extractLsb' 0 8] := by
  have hlow (k : Nat) (h : k + 8 ≤ 32) : s.ts.extractLsb' k 8 = s.arg1.extractLsb' k 8 :=
    BitVec.extractLsb'_append_eq_of_add_le h
  have hhigh : s.ts.extractLsb' 32 8 = s.arg2.extractLsb' 0 8 := BitVec.extractLsb'_append_eq_of_le (Nat.le_refl 32)
  rw [timestampBytes, hlow 0 (by omega), hlow 8 (by omega), hlow 16 (by omega), hlow 24 (by omega), hhigh]

theorem packetTypeOf_reserved : packetTypeOf 3#2 = none := rfl

/-- Every other code names a type, and only code 1 names TC. -/
theorem packetTypeOf_cases : ∀ c : BitVec 2, c ≠ 3#2 → ∃ ty, packetTypeOf c = some ty ∧ (ty = .tc ↔ c = 1#2) := by
  decide

/-! ### BuildFrame (R156, R157) -/

@[simp] theorem wireHeader_length (s : State) (p : List Byte) : (wireHeader s p).length = 8 := rfl

theorem header_eq_wireHeader {s : State} {ty : PacketType} (hty : ty = .tc ↔ s.typeCode = 1#2) (p : List Byte) :
    header ty s.deviceId s.ts p.length = wireHeader s p := by
  simp [header, wireHeader, controlByte, hty, State.timestampBytes_ts, State.typeCode, State.deviceId]

theorem frameOf_eq_wireFrame {s : State} {ty : PacketType} (hty : ty = .tc ↔ s.typeCode = 1#2) (p : List Byte) :
    frameOf s.ctrl.crcBe ty s.deviceId s.ts p = ⟨wireFrame s p, crc16 (wireHeader s p ++ p)⟩ := by
  rw [frameOf, header_eq_wireHeader hty]
  rfl

/-- The checks of R156 in their order, in terms of the argument registers, and the frame when all pass. -/
theorem State.buildFrame_eq (s : State) (p : List Byte) : s.buildFrame p =
    if s.arg0.extractLsb' 0 2 = 3#2 then .error .errIllegal
    else if 2 ^ 8 ≤ s.arg2.toNat then .error .errTimestamp
    else if 31 < (s.arg0.extractLsb' 8 8).toNat then .error .errDevice
    else if 255 < p.length then .error .errLength
    else .ok ⟨wireFrame s p, crc16 (wireHeader s p ++ p)⟩ := by
  by_cases hres : s.arg0.extractLsb' 0 2 = 3#2
  · rw [if_pos hres, State.buildFrame, Machine.buildFrame, State.typeCode, hres, packetTypeOf_reserved]
  · obtain ⟨ty, hsome, hty⟩ := packetTypeOf_cases s.typeCode hres
    rw [if_neg hres, State.buildFrame, Machine.buildFrame, hsome]
    simp only [s.timestamp_tooLarge_iff, frameOf_eq_wireFrame hty]
    rfl

theorem State.buildFrame_legal {s : State} (h : LegalPacket s) :
    s.buildFrame s.inBytes = .ok ⟨wireFrame s s.inBytes, crc16 (wireHeader s s.inBytes ++ s.inBytes)⟩ := by
  obtain ⟨-, htype, hts, hdev, hlen⟩ := h
  rw [State.buildFrame_eq, if_neg htype, if_neg (by omega), if_neg (by omega), if_neg]
  rw [State.inBytes_length]
  omega

theorem wireFrame_length (s : State) (p : List Byte) : (wireFrame s p).length = 10 + p.length := by
  have hcrc (c : Half) : (wireChecksum s c).length = 2 := wireCrc_length s.ctrl.crcBe c
  rw [wireFrame, List.length_append, List.length_append, hcrc, wireHeader_length]
  omega

/-! ### The commands that put a built frame out (R159, R160) -/

section BuiltFrames

variable {i : Instr} {toOut : State → List Byte → List Byte}
  (hi : ∀ s, exec i s = .next (s.withInput fun p => s.packetResult (s.buildFrame p) (toOut s)))

include hi

theorem exec_buildFrame_error {s : State} {e : ResultCode} (h : s.inLen.toNat ≤ s.params.inCap)
    (he : s.buildFrame s.inBytes = .error e) : ∃ t, exec i s = .next t ∧ OnlyStatus s t e := by
  refine ⟨s.raise e, ?_, onlyStatus_raise s e⟩
  rw [exec_legal (hi s) h, he, State.packetResult]

/-- Both commands fail in the order of the checks: each clause of PacketErrors takes one branch of `State.buildFrame_eq`. -/
theorem packetErrors_of_exec : PacketErrors i := by
  refine ⟨fun s => exec_tooLong (hi s), fun s htype => ?_, fun s h htype hts => ?_, fun s h htype hts hdev => ?_,
    fun s h htype hts hdev hlen => ?_⟩
  · rcases Nat.lt_or_ge s.params.inCap s.inLen.toNat with h | h
    · exact exec_tooLong (hi s) h
    · exact exec_buildFrame_error hi h (by rw [State.buildFrame_eq, if_pos htype])
  · exact exec_buildFrame_error hi h (by rw [State.buildFrame_eq, if_neg htype, if_pos hts])
  · exact exec_buildFrame_error hi h (by rw [State.buildFrame_eq, if_neg htype, if_neg (by omega), if_pos hdev])
  · refine exec_buildFrame_error hi h ?_
    rw [State.buildFrame_eq, if_neg htype, if_neg (by omega), if_neg (by omega), if_pos]
    rwa [State.inBytes_length]

/-- With legal operands both commands put out what they make of the frame, with the checksum and the number of bytes put out
in RES0 and RES1. -/
theorem exec_legalPacket {s : State} (h : LegalPacket s) (hwf : Memory.wf s.outBuf)
    (hb : (toOut s (wireFrame s s.inBytes)).length < 2 ^ 16) :
    ∃ t, exec i s = .next t ∧ Finished s t .ok ∧ OperandsKept s t ∧ FramerKept s t ∧
      OutIs s t (toOut s (wireFrame s s.inBytes)) ∧
      ResultsAre t ((crc16 (wireHeader s s.inBytes ++ s.inBytes)).setWidth 32)
        (BitVec.ofNat 32 (toOut s (wireFrame s s.inBytes)).length) 0#32 := by
  refine ⟨_, ?_, setOut_setRes_finish_frame hwf hb _ _ _ _⟩
  rw [exec_legal (hi s) h.input, State.buildFrame_legal h, State.packetResult]

end BuiltFrames

/-- The checksum of the example's header. -/
theorem crc16_example : crc16 [0x01, 0x00, 0x00, 0x00, 0x00, 0x00, 0x00, 0x00] = 0x1851#16 := by decide +kernel

/-- The example of R159 and R160: header and frame for operands that are all zero. -/
theorem wireFrame_example {s : State} (h0 : s.arg0 = 0#32) (h1 : s.arg1 = 0#32) (h2 : s.arg2 = 0#32)
    (hbe : s.ctrl.crcBe = false) :
    wireHeader s [] = [0x01, 0x00, 0x00, 0x00, 0x00, 0x00, 0x00, 0x00] ∧
      wireFrame s [] = [0x01, 0x00, 0x00, 0x00, 0x00, 0x00, 0x00, 0x00, 0x51, 0x18] := by
  have hheader : wireHeader s [] = [0x01, 0x00, 0x00, 0x00, 0x00, 0x00, 0x00, 0x00] := by simp [wireHeader, h0, h1, h2]
  refine ⟨hheader, ?_⟩
  rw [wireFrame, hheader, List.append_nil, crc16_example, wireChecksum, hbe]
  rfl

/-! ### PKT_BUILD (R159) -/

theorem exec_pktBuild (s : State) :
    exec .pktBuild s = .next (s.withInput fun p => s.packetResult (s.buildFrame p) id) := rfl

/-- Settles O35: the errors by `packetErrors_of_exec`, the frame by `exec_legalPacket`, and the example as a value of
`wireFrame`. -/
theorem pktBuildPutsOutTheFrame : Obligations.PktBuildPutsOutTheFrame := by
  refine ⟨rfl, packetErrors_of_exec (toOut := fun _ => id) exec_pktBuild, fun s hinv h => ?_⟩
  have hlen : (wireFrame s s.inBytes).length = 10 + s.inLen.toNat := by rw [wireFrame_length, State.inBytes_length]
  have hshort := h.length
  obtain ⟨t, hexec, hfin, hops, hfb, hout, hres⟩ :=
    exec_legalPacket (toOut := fun _ => id) exec_pktBuild h hinv.outCanonical (by rw [id, hlen]; omega)
  rw [id] at hout hres
  refine ⟨t, hexec, hfin, hops, hfb, hout, hlen ▸ hres, fun h0 h1 h2 hempty hbe => ?_⟩
  obtain ⟨hheader, hframe⟩ := wireFrame_example h0 h1 h2 hbe
  rw [State.inBytes_eq_nil hempty, hframe] at hout hres
  refine ⟨hout, ?_, hres.res1⟩
  rw [hres.res0, hheader, List.append_nil, crc16_example]
  rfl

/-! ### PKT_ENCODE (R160) -/

theorem exec_pktEncode (s : State) : exec .pktEncode s =
    .next (s.withInput fun p => s.packetResult (s.buildFrame p) (transmissionBytes s.ctrl.encLead)) := rfl

/-- Stuffing adds at least one byte, over the bytes collected and those still to come. -/
theorem lt_stuffFrom_length (blk d : List Byte) : blk.length + d.length < (stuffFrom blk d).length := by
  induction d generalizing blk with
  | nil =>
    rw [stuffFrom_nil, List.length_cons, List.length_nil]
    omega
  | cons x rest ih =>
    have hnext := ih []
    rw [List.length_nil] at hnext
    by_cases hx : x = 0x00#8
    · subst hx
      simp only [stuffFrom_delim, List.length_cons, List.length_append]
      omega
    · by_cases hfull : blk.length + 1 = 254
      · rw [stuffFrom_full hx hfull]
        split
        · next hnil => simp [hnil]
        · simp only [List.length_cons, List.length_append]
          omega
      · have := ih (blk ++ [x])
        rw [stuffFrom_data hx hfull, List.length_cons]
        rw [List.length_append, List.length_singleton] at this
        omega

theorem lt_stuff_length (d : List Byte) : d.length < (stuff d).length := by
  simpa [stuff] using lt_stuffFrom_length [] d

theorem transmissionBytes_plain (f : List Byte) : transmissionBytes false f = stuff f ++ [0x00] := rfl

theorem transmissionBytes_lead (f : List Byte) : transmissionBytes true f = [0x00] ++ stuff f ++ [0x00] := rfl

theorem transmissionBytes_length (lead : Bool) (f : List Byte) :
    (transmissionBytes lead f).length = (stuff f).length + (if lead then 2 else 1) := by
  cases lead <;> simp [transmissionBytes, delimit]

/-- A legal frame has 10 to 265 bytes, and its stuffing 11 to 267. -/
theorem LegalPacket.stuff_wireFrame_length {s : State} (h : LegalPacket s) :
    11 ≤ (stuff (wireFrame s s.inBytes)).length ∧ (stuff (wireFrame s s.inBytes)).length ≤ 267 := by
  have hlow := lt_stuff_length (wireFrame s s.inBytes)
  have hhigh := stuff_length_le (wireFrame s s.inBytes)
  rw [wireFrame_length, State.inBytes_length] at hlow hhigh
  have := h.length
  omega

theorem stuff_frame_example : stuff [0x01, 0x00, 0x00, 0x00, 0x00, 0x00, 0x00, 0x00, 0x51, 0x18] =
    [0x02, 0x01, 0x01, 0x01, 0x01, 0x01, 0x01, 0x01, 0x03, 0x51, 0x18] := by decide

/-- Settles O36: as O35, with the bytes put out for either value of ENC_LEAD (`transmissionBytes_plain`,
`transmissionBytes_lead`), their number by `LegalPacket.stuff_wireFrame_length`, and the delimiters by
`delim_not_mem_stuff`. -/
theorem pktEncodePutsOutTheTransmission : Obligations.PktEncodePutsOutTheTransmission := by
  refine ⟨rfl, packetErrors_of_exec exec_pktEncode, fun s hinv h => ?_⟩
  have hlen := transmissionBytes_length s.ctrl.encLead (wireFrame s s.inBytes)
  obtain ⟨hlow, hhigh⟩ := h.stuff_wireFrame_length
  obtain ⟨t, hexec, hfin, hops, hfb, hout, hres⟩ :=
    exec_legalPacket exec_pktEncode h hinv.outCanonical (by split at hlen <;> omega)
  have hres1 : BitVec.ofNat 32 (transmissionBytes s.ctrl.encLead (wireFrame s s.inBytes)).length =
      t.outLen.setWidth 32 := by rw [← hout.outLen, BitVec.ofNat_toNat]
  rw [← hout.outLen] at hlen
  refine ⟨t, hexec, hfin, hops, hfb, fun hlead => ?_, fun hlead => ?_, delim_not_mem_stuff _, hres1 ▸ hres,
    fun h0 h1 h2 hempty hbe hlead => ?_⟩
  · rw [hlead, if_neg Bool.false_ne_true] at hlen
    rw [hlead, transmissionBytes_plain] at hout
    exact ⟨hout, by omega, by omega⟩
  · rw [hlead, if_pos rfl] at hlen
    rw [hlead, transmissionBytes_lead] at hout
    exact ⟨hout, by omega, by omega⟩
  · have hframe := (wireFrame_example h0 h1 h2 hbe).2
    rw [State.inBytes_eq_nil hempty, hframe, hlead, transmissionBytes_plain, stuff_frame_example] at hout hres
    exact ⟨hout, hres.res1⟩

/-! ### DecodeFrame (R165, R166) -/

theorem decodeFrame_version {f : List Byte} (hpos : 1 ≤ f.length) (hver : f.getD 0 0x00#8 ≠ 0x01#8) :
    decodeFrame f = sentinel .version := if_pos ⟨hpos, hver⟩

/-- The length check of R165 as a sum, without the subtraction. -/
theorem frame_wrongLength_iff (f : List Byte) :
    (f.length < Config.minFrame ∨ (frameByte f 1).toNat ≠ f.length - Config.minFrame) ↔
      f.length < 10 ∨ (f.getD 1 0x00#8).toNat + 10 ≠ f.length := by
  have hmin : Config.minFrame = 10 := rfl
  rw [hmin, frameByte]
  omega

theorem decodeFrame_length {f : List Byte} (hver : 1 ≤ f.length → f.getD 0 0x00#8 = 0x01#8)
    (hlen : f.length < 10 ∨ (f.getD 1 0x00#8).toNat + 10 ≠ f.length) : decodeFrame f = sentinel .length := by
  rw [decodeFrame, if_neg fun h => h.2 (hver h.1), if_pos ((frame_wrongLength_iff f).mpr hlen)]

theorem decodeFrame_good {f : List Byte} (hver : f.getD 0 0x00#8 = 0x01#8)
    (hlen : (f.getD 1 0x00#8).toNat + 10 = f.length) :
    decodeFrame f =
      { type := if (f.getD 2 0x00#8).getLsbD 7 then .tc else .tm
        deviceId := (f.getD 2 0x00#8).extractLsb' 2 5
        timestamp := frameTimestamp f
        payload := (f.drop 8).take (f.length - 10)
        reason := .none } := by
  have hpay : (f.getD 1 0x00#8).toNat = f.length - 10 := by omega
  rw [decodeFrame, if_neg fun h => h.2 hver, if_neg ((frame_wrongLength_iff f).not.mpr (by omega)), ← hpay]
  rfl

/-- A payload is no longer than its frame. -/
theorem decodeFrame_payload_length_le (f : List Byte) : (decodeFrame f).payload.length ≤ f.length := by
  rw [decodeFrame]
  split
  · exact Nat.zero_le _
  · split
    · exact Nat.zero_le _
    · simp only [List.length_take, List.length_drop]
      omega

/-! ### The fields of RES0 to RES2 (R154, R168) -/

theorem Packet.res0_type (p : Packet) : p.res0.extractLsb' 0 2 = p.type.code :=
  BitVec.extractLsb'_append_eq_right

theorem Packet.res0_zeros (p : Packet) : p.res0.extractLsb' 2 6 = 0#6 := by
  rw [Packet.res0, BitVec.extractLsb'_append_eq_of_le (Nat.le_refl 2)]
  exact BitVec.extractLsb'_append_eq_right

/-- Three zero bits above the identifier fill its byte. -/
theorem Packet.res0_deviceId (p : Packet) : p.res0.extractLsb' 8 8 = p.deviceId.setWidth 8 := by
  rw [Packet.res0, BitVec.extractLsb'_append_eq_of_le (by omega), BitVec.extractLsb'_append_eq_of_le (by omega)]
  ext k hk
  rw [BitVec.getElem_extractLsb', BitVec.getLsbD_append, BitVec.getLsbD_append, BitVec.getElem_setWidth]
  by_cases h5 : k < 5
  · simp [h5]
  · have h3 : k - 5 < 3 := by omega
    simp [h5, h3, BitVec.getLsbD_of_ge p.deviceId k (by omega)]

/-- Fourteen zero bits above the reason fill its half. -/
theorem Packet.res0_reason (p : Packet) : p.res0.extractLsb' 16 16 = p.reason.code.setWidth 16 := by
  rw [Packet.res0, BitVec.extractLsb'_append_eq_of_le (by omega), BitVec.extractLsb'_append_eq_of_le (by omega),
    BitVec.extractLsb'_append_eq_of_le (by omega), BitVec.extractLsb'_append_eq_of_le (by omega)]
  simp [BitVec.setWidth_eq_append]

/-- The timestamp's bytes are bytes 3 to 7 of the frame, low byte first (R154). -/
theorem frameTimestamp_byte (f : List Byte) {i : Nat} (hi : i < 5) :
    (frameTimestamp f).extractLsb' (8 * i) 8 = frameByte f (3 + i) := by
  match i, hi with
  | 0, _ => exact BitVec.extractLsb'_append_eq_right
  | 1, _ =>
    rw [frameTimestamp, BitVec.extractLsb'_append_eq_of_le (by omega)]
    exact BitVec.extractLsb'_append_eq_right
  | 2, _ =>
    rw [frameTimestamp, BitVec.extractLsb'_append_eq_of_le (by omega), BitVec.extractLsb'_append_eq_of_le (by omega)]
    exact BitVec.extractLsb'_append_eq_right
  | 3, _ =>
    rw [frameTimestamp, BitVec.extractLsb'_append_eq_of_le (by omega), BitVec.extractLsb'_append_eq_of_le (by omega),
      BitVec.extractLsb'_append_eq_of_le (by omega)]
    exact BitVec.extractLsb'_append_eq_right
  | 4, _ =>
    rw [frameTimestamp, BitVec.extractLsb'_append_eq_of_le (by omega), BitVec.extractLsb'_append_eq_of_le (by omega),
      BitVec.extractLsb'_append_eq_of_le (by omega)]
    exact BitVec.extractLsb'_append_eq_left

/-- RES1 holds the four low bytes of the timestamp. -/
theorem frameTimestamp_low_byte (f : List Byte) {i : Nat} (hi : i < 4) :
    ((frameTimestamp f).extractLsb' 0 32).extractLsb' (8 * i) 8 = frameByte f (3 + i) := by
  rw [BitVec.extractLsb'_extractLsb'_of_le (by omega), frameTimestamp_byte f (by omega)]

/-! ### PKT_DECODE (R168) -/

theorem exec_pktDecode (s : State) : exec .pktDecode s =
    .next (s.withInput fun f => ((s.setOut (decodeFrame f).payload).setRes (decodeFrame f).res0
      ((decodeFrame f).timestamp.extractLsb' 0 32) (((decodeFrame f).timestamp.extractLsb' 32 8).setWidth 32)).finish .ok) :=
  rfl

theorem decodeFrame_example : decodeFrame [0x01, 0x00, 0x00, 0x00, 0x00, 0x00, 0x00, 0x00, 0x51, 0x18] =
    { type := .tm, deviceId := 0#5, timestamp := 0#40, payload := [], reason := .none } := by decide

/-- Settles O37: the input check by `exec_tooLong` and `exec_legal`, what is written by `setOut_setRes_finish_frame`, and the
three outcomes of the decoder by `decodeFrame_version`, `decodeFrame_length` and `decodeFrame_good`, the last with the fields
of RES0 to RES2. -/
theorem pktDecodeGivesThePacketOrTheSentinel : Obligations.PktDecodeGivesThePacketOrTheSentinel := by
  refine ⟨rfl, fun s => exec_tooLong (exec_pktDecode s), fun s hinv h => ?_⟩
  have hinlen := s.inBytes_length
  have hshort : (decodeFrame s.inBytes).payload.length < 2 ^ 16 := by
    have := decodeFrame_payload_length_le s.inBytes
    have := hinv.inBytes_length_le h
    omega
  obtain ⟨hfin, hops, hfb, hout, hres⟩ := setOut_setRes_finish_frame hinv.outCanonical hshort (decodeFrame s.inBytes).res0
    ((decodeFrame s.inBytes).timestamp.extractLsb' 0 32)
    (((decodeFrame s.inBytes).timestamp.extractLsb' 32 8).setWidth 32) .ok
  refine ⟨_, exec_legal (exec_pktDecode s) h, hfin, hops, hfb, fun hpos hver => ?_, fun hver hlen => ?_,
    fun _ hver hlen => ?_, fun hex => ?_⟩
  · rw [decodeFrame_version (by omega) hver] at hout hres ⊢
    exact ⟨hout, hres⟩
  · rw [← hinlen] at hver hlen
    rw [decodeFrame_length hver hlen] at hout hres ⊢
    exact ⟨hout, hres⟩
  · rw [← hinlen] at hlen ⊢
    rw [decodeFrame_good hver hlen] at hout hres ⊢
    refine ⟨hout, ?_, Packet.res0_zeros _, Packet.res0_deviceId _, Packet.res0_reason _,
      frameTimestamp_low_byte _ (i := 0) (by omega), frameTimestamp_low_byte _ (i := 1) (by omega),
      frameTimestamp_low_byte _ (i := 2) (by omega), frameTimestamp_low_byte _ (i := 3) (by omega),
      congrArg (BitVec.setWidth 32) (frameTimestamp_byte _ (i := 4) (by omega))⟩
    exact (Packet.res0_type _).trans (apply_ite PacketType.code _ _ _)
  · rw [hex, decodeFrame_example] at hout hres ⊢
    exact ⟨rfl, hres⟩

end Sys2Proof.Machine

/-! SUPPORT. The framer (43_framer.md): spans of the store and the delimiters in them, one pass of Extract() and what every
result of it meets, what each framer command writes, and the proofs of the statements about them. -/

namespace Sys2Proof.Machine

/-! ### What a command writes (00_scope.md R12) -/

/-- `finish(code)` whatever else the command wrote (00_scope.md R12). -/
theorem finished_of_status {s t : State} {c : ResultCode} (h : t.status = s.status.finish c) : Finished s t c :=
  ⟨by rw [h, Status.finish_result], by rw [h, Status.finish_err, ResultCode.isError]⟩

/-- The operands are as before, whatever a framer command writes in the other fields (43_framer.md R185 to R199). -/
theorem operandsKept_of_writes (s : State) (status : Status) (outLen : Half) (r0 r1 r2 : Word) (outBuf fbStore : Memory)
    (fbWr fbCur : Nat) : OperandsKept s { s with
      status := status, outLen := outLen, res0 := r0, res1 := r1, res2 := r2,
      outBuf := outBuf, fbStore := fbStore, fbWr := fbWr, fbCur := fbCur } :=
  ⟨rfl, rfl, rfl, rfl, rfl, rfl, rfl, fun _ => rfl, rfl, rfl⟩

/-- Writing two lists one after the other is writing them as one. -/
theorem Memory.writeBytes_append (m : Memory) (a : Nat) (bs cs : List Byte) :
    Memory.writeBytes m a (bs ++ cs) = Memory.writeBytes (Memory.writeBytes m a bs) (a + bs.length) cs := by
  induction bs generalizing m a with
  | nil => rfl
  | cons b t ih =>
    have hshift : a + (b :: t).length = a + 1 + t.length := by
      rw [List.length_cons]
      omega
    rw [hshift, List.cons_append]
    exact ih _ _

/-! ### Spans of the store (R180) -/

theorem Memory.mem_slice {m : Memory} {a n : Nat} {b : Byte} :
    b ∈ Memory.slice m a n ↔ ∃ k, k < n ∧ Memory.read m (a + k) = b := by
  simp [List.mem_iff_getElem, Memory.slice_getElem]

@[simp] theorem storeSpan_self (st : Memory) (a : Nat) : storeSpan st a a = [] := by simp [storeSpan]

theorem storeSpan_split {st : Memory} {a b : Nat} {l r : List Byte} (h : storeSpan st a b = l ++ r) :
    storeSpan st a (a + l.length) = l ∧ storeSpan st (a + l.length) b = r := by
  have hlen : b - a = l.length + r.length := by simpa using congrArg List.length h
  have hrest : b - (a + l.length) = r.length := by omega
  rw [storeSpan, hlen, Memory.slice_append] at h
  rw [storeSpan, storeSpan, Nat.add_sub_cancel_left, hrest]
  exact List.append_inj h (by simp)

/-- The span up to a delimiter, the span from it on, and the span after it. -/
theorem storeSpan_split_delim {st : Memory} {a b : Nat} {l r : List Byte} (h : storeSpan st a b = l ++ 0x00#8 :: r) :
    storeSpan st a (a + l.length) = l ∧ storeSpan st (a + l.length) b = 0x00#8 :: r ∧
      storeSpan st (a + l.length + 1) b = r := by
  obtain ⟨hl, hr⟩ := storeSpan_split h
  exact ⟨hl, hr, (storeSpan_split (l := [0x00#8]) hr).2⟩

theorem firstDelim_eq_none_iff {st : Memory} {a b : Nat} : firstDelim st a b = none ↔ 0x00#8 ∉ storeSpan st a b := by
  rw [firstDelim, firstDelimFrom_none, storeSpan, Memory.mem_slice]
  simp

theorem firstDelimFrom_eq_some {st : Memory} {a n : Nat} {l r : List Byte}
    (h : Memory.slice st a n = l ++ 0x00#8 :: r) (h0 : 0x00#8 ∉ l) : firstDelimFrom st a n = some (a + l.length) := by
  induction l generalizing a n with
  | nil =>
    cases n with
    | zero => cases h
    | succ k => exact if_pos (List.cons.inj h).1
  | cons x t ih =>
    cases n with
    | zero => cases h
    | succ k =>
      obtain ⟨hx, ht⟩ := List.cons.inj h
      have hread : Memory.read st a ≠ Config.delim := fun hd => List.ne_of_not_mem_cons h0 (hd.symm.trans hx)
      rw [firstDelimFrom, if_neg hread, ih ht (List.not_mem_of_not_mem_cons h0), List.length_cons]
      congr 1
      omega

theorem firstDelim_eq_some {st : Memory} {a b : Nat} {l r : List Byte} (h : storeSpan st a b = l ++ 0x00#8 :: r)
    (h0 : 0x00#8 ∉ l) : firstDelim st a b = some (a + l.length) :=
  firstDelimFrom_eq_some h h0

/-! ### Verify (R181) -/

theorem verify_length_lt {be : Bool} {span f : List Byte} (h : verify be span = some f) : f.length < span.length := by
  obtain ⟨hun, hmin, -⟩ := verify_some.mp h
  have := unstuff_length_le hun
  omega

/-- A short candidate fails. -/
theorem verify_eq_none_of_short (be : Bool) {span : List Byte} (h : span.length < 10) : verify be span = none := by
  refine Option.eq_none_iff_forall_ne_some.mpr fun f hf => ?_
  obtain ⟨-, hmin, -⟩ := verify_some.mp hf
  have := verify_length_lt hf
  omega

/-! ### What every result of Extract() meets (R196) -/

/-- A result of Extract() on the store bytes from `cur` to `wr`: the cursor stays among them, and a frame is shorter than the
bytes it consumes. -/
structure Extracted.Within (r : Extracted) (cur wr : Nat) : Prop where
  cursor_ge : cur ≤ r.cursor
  cursor_le : r.cursor ≤ wr
  frame_lt : ∀ f, r.frame = some f → cur + f.length < r.cursor

theorem Extracted.within_none {cur wr c : Nat} (hlo : cur ≤ c) (hhi : c ≤ wr) :
    Extracted.Within { frame := none, cursor := c } cur wr := ⟨hlo, hhi, nofun⟩

/-- A span at or after `cur` that verifies, with the cursor at its end or beyond, is a result within `cur` and `wr`. -/
theorem Extracted.within_some {be : Bool} {st : Memory} {cur wr a b c : Nat} {f : List Byte}
    (hf : verify be (storeSpan st a b) = some f) (ha : cur ≤ a) (hb : b ≤ c) (hc : c ≤ wr) :
    Extracted.Within { frame := some f, cursor := c } cur wr := by
  have hlt : f.length < b - a := by simpa using verify_length_lt hf
  refine ⟨by show cur ≤ c; omega, hc, fun g hg => ?_⟩
  cases hg
  show cur + f.length < c
  omega

theorem leadingFrame_some {be : Bool} {st : Memory} {cur d1 : Nat} {f : List Byte}
    (h : leadingFrame be st cur d1 = some f) : verify be (storeSpan st cur d1) = some f := by
  unfold leadingFrame at h
  split at h
  · exact h
  · cases h

theorem leadingFrame_eq_none {be : Bool} {st : Memory} {cur d1 : Nat} {span : List Byte}
    (hs : storeSpan st cur d1 = span) (h : span.length < 10 ∨ verify be span = none) :
    leadingFrame be st cur d1 = none := by
  subst hs
  rw [storeSpan_length] at h
  rcases h with hshort | hfail
  · exact if_neg (Nat.not_le.mpr hshort)
  · rw [leadingFrame, hfail, ite_self]

theorem trailingFrame_within {be : Bool} {st : Memory} {cur wr d1 : Nat} (hcur : cur ≤ d1) (hwr : d1 < wr) :
    (trailingFrame be st wr d1).Within cur wr := by
  have hrest := Extracted.within_none hcur (Nat.le_of_lt hwr)
  unfold trailingFrame
  split
  · split
    · next f hf => exact Extracted.within_some hf (by omega) (Nat.le_refl _) (Nat.le_refl _)
    · exact hrest
  · exact hrest

/-- All that one pass through S2 can do: end with a result, or go back to S2 with the cursor moved on and bytes left. -/
theorem extractFrom_pass (be : Bool) (st : Memory) {wr cur : Nat} (h : cur ≤ wr) :
    (∃ r, r.Within cur wr ∧ ∀ k, extractFrom be st wr (k + 1) cur = r) ∨
    (∃ c, cur < c ∧ c < wr ∧ ∀ k, extractFrom be st wr (k + 1) cur = extractFrom be st wr k c) := by
  cases hd1 : firstDelim st cur wr with
  | none => exact .inl ⟨_, Extracted.within_none h (Nat.le_refl wr), fun k => by simp only [extractFrom, hd1]⟩
  | some d1 =>
    obtain ⟨hcur, hwr, -, -⟩ := firstDelim_some hd1
    cases hlead : leadingFrame be st cur d1 with
    | some f =>
      exact .inl ⟨_, Extracted.within_some (leadingFrame_some hlead) (Nat.le_refl _) (Nat.le_succ d1) hwr,
        fun k => by simp only [extractFrom, hd1, hlead]⟩
    | none =>
      cases hd2 : firstDelim st (d1 + 1) wr with
      | none =>
        exact .inl ⟨trailingFrame be st wr d1, trailingFrame_within hcur hwr,
          fun k => by simp only [extractFrom, hd1, hlead, hd2]⟩
      | some d2 =>
        obtain ⟨hd12, hwr2, -, -⟩ := firstDelim_some hd2
        cases hv : verify be (storeSpan st (d1 + 1) d2) with
        | some f =>
          exact .inl ⟨_, Extracted.within_some hv (by omega) (Nat.le_succ d2) hwr2,
            fun k => by simp only [extractFrom, hd1, hlead, hd2, hv]⟩
        | none => exact .inr ⟨d1 + 1, by omega, by omega, fun k => by simp only [extractFrom, hd1, hlead, hd2, hv]⟩

theorem extractFrom_within (be : Bool) (st : Memory) {wr fuel cur : Nat} (h : cur ≤ wr) :
    (extractFrom be st wr fuel cur).Within cur wr := by
  induction fuel generalizing cur with
  | zero => exact Extracted.within_none (Nat.le_refl _) h
  | succ k ih =>
    rcases extractFrom_pass be st h with ⟨r, hr, hpass⟩ | ⟨c, hc, hwr, hpass⟩
    · exact hpass k ▸ hr
    · obtain ⟨hge, hle, hlt⟩ := ih (Nat.le_of_lt hwr)
      rw [hpass]
      exact ⟨by omega, hle, fun f hf => by have := hlt f hf; omega⟩

/-- One pass through S2 for each byte is enough, so more fuel changes nothing. -/
theorem extractFrom_fuel (be : Bool) (st : Memory) {wr n m cur : Nat} (h : cur < wr) (hn : wr - cur ≤ n)
    (hm : wr - cur ≤ m) : extractFrom be st wr n cur = extractFrom be st wr m cur := by
  induction n generalizing m cur with
  | zero => omega
  | succ k ih =>
    obtain ⟨j, rfl⟩ : ∃ j, m = j + 1 := ⟨m - 1, by omega⟩
    rcases extractFrom_pass be st (Nat.le_of_lt h) with ⟨r, -, hpass⟩ | ⟨c, hc, hwr, hpass⟩
    · rw [hpass, hpass]
    · rw [hpass, hpass]
      exact ih hwr (by omega) (by omega)

/-! ### Extract() on a region given by its bytes (R189) -/

section Region

variable {be : Bool} {st : Memory} {wr cur : Nat} {span cand rest tail f : List Byte}

/-- S2: no delimiter. -/
theorem extractFrom_noDelim (h0 : 0x00#8 ∉ storeSpan st cur wr) (k : Nat) :
    extractFrom be st wr (k + 1) cur = { frame := none, cursor := wr } := by
  simp only [extractFrom, firstDelim_eq_none_iff.mpr h0]

/-- S3c: one delimiter, after which Extract() is `trailingFrame`. -/
theorem extractFrom_oneDelim (h : storeSpan st cur wr = span ++ 0x00#8 :: tail) (hspan : 0x00#8 ∉ span)
    (htail : 0x00#8 ∉ tail) (hlead : span.length < 10 ∨ verify be span = none) (k : Nat) :
    extractFrom be st wr (k + 1) cur = trailingFrame be st wr (cur + span.length) := by
  obtain ⟨hl, -, hr⟩ := storeSpan_split_delim h
  have hd2 : firstDelim st (cur + span.length + 1) wr = none := firstDelim_eq_none_iff.mpr (hr ▸ htail)
  simp only [extractFrom, firstDelim_eq_some h hspan, leadingFrame_eq_none hl hlead, hd2]

theorem trailingFrame_some (h : storeSpan st (cur + 1) wr = tail) (hlen : 10 ≤ tail.length)
    (hf : verify be tail = some f) : trailingFrame be st wr cur = { frame := some f, cursor := wr } := by
  subst h
  rw [storeSpan_length] at hlen
  have hmin : Config.minFrame ≤ wr - (cur + 1) := hlen
  rw [trailingFrame, if_pos hmin, hf]

theorem trailingFrame_none (h : storeSpan st (cur + 1) wr = tail) (hfail : tail.length < 10 ∨ verify be tail = none) :
    trailingFrame be st wr cur = { frame := none, cursor := cur } := by
  subst h
  rw [storeSpan_length] at hfail
  rcases hfail with hshort | hfail
  · exact if_neg (Nat.not_le.mpr hshort)
  · simp only [trailingFrame, hfail, ite_self]

/-- S3b: two delimiters, and the candidate between them verifies. -/
theorem extractFrom_candidate (h : storeSpan st cur wr = span ++ 0x00#8 :: (cand ++ 0x00#8 :: rest))
    (hspan : 0x00#8 ∉ span) (hcand : 0x00#8 ∉ cand) (hlead : span.length < 10 ∨ verify be span = none)
    (hf : verify be cand = some f) (k : Nat) : extractFrom be st wr (k + 1) cur =
      { frame := some f, cursor := cur + span.length + 1 + cand.length + 1 } := by
  obtain ⟨hl, -, hr⟩ := storeSpan_split_delim h
  obtain ⟨hc, -, -⟩ := storeSpan_split_delim hr
  rw [← hc] at hf
  simp only [extractFrom, firstDelim_eq_some h hspan, leadingFrame_eq_none hl hlead, firstDelim_eq_some hr hcand, hf]

/-- S3b: the candidate fails, and S2 is repeated just past the first delimiter. -/
theorem extractFrom_failedCandidate (h : storeSpan st cur wr = span ++ 0x00#8 :: (cand ++ 0x00#8 :: rest))
    (hspan : 0x00#8 ∉ span) (hcand : 0x00#8 ∉ cand) (hlead : span.length < 10 ∨ verify be span = none)
    (hfail : verify be cand = none) (k : Nat) :
    extractFrom be st wr (k + 1) cur = extractFrom be st wr k (cur + span.length + 1) := by
  obtain ⟨hl, -, hr⟩ := storeSpan_split_delim h
  obtain ⟨hc, -, -⟩ := storeSpan_split_delim hr
  rw [← hc] at hfail
  simp only [extractFrom, firstDelim_eq_some h hspan, leadingFrame_eq_none hl hlead, firstDelim_eq_some hr hcand, hfail]

/-- With fewer than MIN_FRAME bytes no span and no candidate is long enough, and the scan ends at the last delimiter. -/
theorem extractFrom_short {pre : List Byte} {fuel : Nat} (h : storeSpan st cur wr = pre ++ 0x00#8 :: tail)
    (htail : 0x00#8 ∉ tail) (hlen : (pre ++ 0x00#8 :: tail).length < 10) (hfuel : pre.length < fuel) :
    extractFrom be st wr fuel cur = { frame := none, cursor := cur + pre.length } := by
  induction fuel generalizing cur pre with
  | zero => omega
  | succ k ih =>
    rw [List.length_append, List.length_cons] at hlen
    by_cases hpre : 0x00#8 ∈ pre
    · obtain ⟨span, pre', rfl, hspan⟩ := List.eq_append_cons_of_mem hpre
      obtain ⟨cand, rest, hcut, hcand⟩ := List.eq_append_cons_of_mem (show 0x00#8 ∈ pre' ++ 0x00#8 :: tail by simp)
      have hsplit : storeSpan st cur wr = span ++ 0x00#8 :: (cand ++ 0x00#8 :: rest) := by
        rw [h, List.append_assoc, List.cons_append, hcut]
      have hcandlen : cand.length + (rest.length + 1) = pre'.length + (tail.length + 1) := by
        simpa using congrArg List.length hcut.symm
      rw [List.length_append, List.length_cons] at hlen hfuel
      rw [extractFrom_failedCandidate hsplit hspan hcand (.inl (by omega)) (verify_eq_none_of_short be (by omega)),
        ih ((storeSpan_split_delim hsplit).2.2.trans hcut.symm) (by rw [List.length_append, List.length_cons]; omega)
          (by omega), List.length_append, List.length_cons]
      congr 1
      omega
    · rw [extractFrom_oneDelim h hpre htail (.inl (by omega))]
      exact trailingFrame_none (storeSpan_split_delim h).2.2 (.inl (by omega))

end Region

/-! ### Extract() from a state (R189) -/

/-- S1: too few bytes. -/
theorem State.extract_short {s : State} (h : s.unconsumed.length < 10) :
    s.extract = { frame := none, cursor := s.fbCur } := by
  rw [State.unconsumed_length] at h
  exact if_pos h

/-- S1: bytes enough, and the scan begins at the cursor. -/
theorem State.extract_long {s : State} (h : 10 ≤ s.unconsumed.length) : s.extract =
    extractFrom s.ctrl.crcBe s.fbStore s.fbWr (s.unconsumed.length + 1) s.fbCur := by
  rw [State.unconsumed_length] at h ⊢
  exact if_neg (Nat.not_lt.mpr h)

theorem State.extract_within {s : State} (h : s.fbCur ≤ s.fbWr) : s.extract.Within s.fbCur s.fbWr := by
  rcases Nat.lt_or_ge s.unconsumed.length 10 with hshort | hlong
  · exact State.extract_short hshort ▸ Extracted.within_none (Nat.le_refl _) h
  · exact State.extract_long hlong ▸ extractFrom_within _ _ h

/-- Settles O54: the bounds by `State.extract_within`, the number of passes by `extractFrom_fuel`. -/
theorem extractTerminatesAndMovesOn : Obligations.ExtractTerminatesAndMovesOn := by
  refine ⟨fun s h => ?_, fun be st wr cur fuel h hfuel => extractFrom_fuel be st h hfuel (Nat.le_refl _)⟩
  obtain ⟨hge, hle, hlt⟩ := State.extract_within h
  refine ⟨hge, hle, fun hframe => ?_⟩
  obtain ⟨f, hf⟩ := Option.ne_none_iff_exists'.mp hframe
  have := hlt f hf
  omega

/-! ### FB_EXTRACT (R188, R192) -/

/-- What FB_EXTRACT leaves in `t` when Extract() answers `r` in `s`. -/
structure ReportsExtraction (s t : State) (r : Extracted) : Prop where
  operands : OperandsKept s t
  store : StoreKept s t
  fbCur : t.fbCur = r.cursor
  results : ResultsAre t (BitVec.ofNat 32 (r.cursor - s.fbCur)) (BitVec.ofNat 32 (s.fbWr - r.cursor)) 0#32
  frame : ∀ f, r.frame = some f → Finished s t .ok ∧ OutIs s t f
  noFrame : r.frame = none → Finished s t .none ∧ t.outLen = 0#16 ∧ OutBytesKept s t

theorem exec_fbExtract (s : State) : exec .fbExtract s = .next (s.extractResult s.extract) := rfl

theorem extractResult_reports {s : State} {r : Extracted} (hwf : Memory.wf s.outBuf)
    (hlen : ∀ f, r.frame = some f → f.length < 2 ^ 16) : ReportsExtraction s (s.extractResult r) r := by
  obtain ⟨frame, c⟩ := r
  cases frame with
  | none =>
    exact ⟨operandsKept_of_writes .., ⟨rfl, fun _ => rfl⟩, rfl, ⟨rfl, rfl, rfl⟩, nofun,
      fun _ => ⟨finished_of_status rfl, rfl, fun _ => rfl⟩⟩
  | some f =>
    obtain ⟨hout, hbytes, hrest⟩ := outIs_setOut hwf (hlen f rfl)
    refine ⟨operandsKept_of_writes .., ⟨rfl, fun _ => rfl⟩, rfl, ⟨rfl, rfl, rfl⟩, fun g hg => ?_, nofun⟩
    cases hg
    exact ⟨finished_of_status rfl, hout, hbytes, hrest⟩

/-- The store, and so every frame in it, has at most 4096 bytes (00_scope.md R8). -/
theorem State.Inv.fbWr_le {s : State} (hinv : s.Inv) : s.fbWr ≤ 4096 := by
  obtain ⟨-, -, -, -, -, -, -, hout, hfb, -⟩ := Params.wf_bounds hinv.paramsLegal
  have := hinv.heldFits
  omega

theorem exec_fbExtract_reports {s : State} (hinv : s.Inv) :
    ∃ t, exec .fbExtract s = .next t ∧ ReportsExtraction s t s.extract := by
  refine ⟨_, exec_fbExtract s, extractResult_reports hinv.outCanonical fun f hf => ?_⟩
  obtain ⟨-, hle, hlt⟩ := State.extract_within hinv.cursorLe
  have := hlt f hf
  have := hinv.fbWr_le
  omega

/-- The bytes left are those of the store from the new cursor on. -/
theorem ReportsExtraction.unconsumed {s t : State} {r : Extracted} (h : ReportsExtraction s t r) :
    t.unconsumed = storeSpan s.fbStore r.cursor s.fbWr := by
  rw [State.unconsumed, h.fbCur, h.store.fbWr]
  exact Memory.slice_congr fun k _ => h.store.fbStore _

/-- The candidate of the example of R188. -/
theorem verify_example : verify false [0x02, 0x01, 0x01, 0x01, 0x01, 0x01, 0x01, 0x01, 0x03, 0x51, 0x18] =
    some [0x01, 0x00, 0x00, 0x00, 0x00, 0x00, 0x00, 0x00, 0x51, 0x18] := by decide +kernel

/-- Settles O39: what is written by `exec_fbExtract_reports`, and the example as a candidate between two delimiters. -/
theorem fbExtractReportsTheExtraction : Obligations.FbExtractReportsTheExtraction := by
  refine ⟨rfl, fun s hinv => ?_⟩
  obtain ⟨t, hexec, hr⟩ := exec_fbExtract_reports hinv
  have hfbLen : t.readReg .fbLen = BitVec.ofNat 32 (s.fbWr - s.extract.cursor) := by
    rw [← hr.fbCur, ← hr.store.fbWr]
    rfl
  refine ⟨t, hexec, hr.operands, hr.store, hr.fbCur, hr.results, hr.results.res1.trans hfbLen.symm, hr.frame, hr.noFrame,
    fun hbe hu => ?_⟩
  have hlen : s.fbWr - s.fbCur = 13 := by simpa using congrArg List.length hu
  have hext : s.extract = { frame := some _, cursor := s.fbCur + 13 } :=
    (State.extract_long (by simp [hu])).trans (extractFrom_candidate (span := [])
      (cand := [0x02, 0x01, 0x01, 0x01, 0x01, 0x01, 0x01, 0x01, 0x03, 0x51, 0x18]) (rest := []) hu
      (by decide) (by decide) (.inl (by decide)) (hbe ▸ verify_example) _)
  rw [hext] at hr
  obtain ⟨hfin, hout⟩ := hr.frame _ rfl
  refine ⟨hfin, hout, ?_, ?_⟩
  · simp [hr.results.res0]
  · simp [hr.results.res1, show s.fbWr - (s.fbCur + 13) = 0 by omega]

/-- Settles O50: the cursor stays by `State.extract_short`, and goes to the end by `extractFrom_noDelim`. -/
theorem extractWaitsOrDiscards : Obligations.ExtractWaitsOrDiscards := by
  intro s hinv
  obtain ⟨t, hexec, hr⟩ := exec_fbExtract_reports hinv
  refine ⟨fun hshort => ?_, fun hlong h0 => ?_⟩
  · rw [State.extract_short hshort] at hr
    obtain ⟨hfin, -, -⟩ := hr.noFrame rfl
    exact ⟨t, hexec, hfin, ⟨hr.store, hr.fbCur⟩, by simpa using hr.results.res0⟩
  · rw [State.extract_long hlong, extractFrom_noDelim h0] at hr
    obtain ⟨hfin, -, -⟩ := hr.noFrame rfl
    exact ⟨t, hexec, hfin, hr.fbCur, by simpa using hr.unconsumed, hr.results.res0⟩

/-- Settles O53: Extract() is `trailingFrame` at the only delimiter (`extractFrom_oneDelim`), with its two outcomes. -/
theorem extractTriesTheUnterminatedTail : Obligations.ExtractTriesTheUnterminatedTail := by
  intro s span tail hinv hu hspan htail hlong hlead
  obtain ⟨-, hrest, hafter⟩ := storeSpan_split_delim hu
  obtain ⟨t, hexec, hr⟩ := exec_fbExtract_reports hinv
  rw [State.extract_long hlong, extractFrom_oneDelim hu hspan htail hlead] at hr
  refine ⟨fun f hlen hf => ?_, fun hfail => ?_⟩
  · rw [trailingFrame_some hafter hlen hf] at hr
    obtain ⟨hfin, hout⟩ := hr.frame f rfl
    exact ⟨t, hexec, hfin, hout, by simpa using hr.unconsumed⟩
  · rw [trailingFrame_none hafter hfail] at hr
    obtain ⟨hfin, -, -⟩ := hr.noFrame rfl
    exact ⟨t, hexec, hfin, hr.unconsumed.trans hrest⟩

/-- S3b from a state: when the candidate fails, S2 is repeated with one pass for each byte that is left (R194, R196). -/
theorem State.extract_failedCandidate {s : State} {span cand rest : List Byte}
    (hu : s.unconsumed = span ++ 0x00#8 :: (cand ++ 0x00#8 :: rest)) (hspan : 0x00#8 ∉ span) (hcand : 0x00#8 ∉ cand)
    (hlong : 10 ≤ s.unconsumed.length) (hlead : span.length < 10 ∨ verify s.ctrl.crcBe span = none)
    (hfail : verify s.ctrl.crcBe cand = none) : s.extract =
      extractFrom s.ctrl.crcBe s.fbStore s.fbWr (cand ++ 0x00#8 :: rest).length (s.fbCur + span.length + 1) := by
  obtain ⟨-, -, hafter⟩ := storeSpan_split_delim hu
  have hbytes : s.fbWr - (s.fbCur + span.length + 1) = (cand ++ 0x00#8 :: rest).length := by
    simpa only [storeSpan_length] using congrArg List.length hafter
  have hpos : 0 < (cand ++ 0x00#8 :: rest).length := List.length_pos_of_mem (a := 0x00#8) (by simp)
  rw [State.extract_long hlong, extractFrom_failedCandidate hu hspan hcand hlead hfail]
  exact extractFrom_fuel _ _ (by omega) (by rw [State.unconsumed_length]; omega) (Nat.le_of_eq hbytes)

/-- Settles O52: `extractFrom_candidate` and `State.extract_failedCandidate` for the two outcomes of the candidate, and
`extractFrom_short` for what follows a failed one when few bytes are left. -/
theorem extractTriesTheDelimitedCandidate : Obligations.ExtractTriesTheDelimitedCandidate := by
  intro s span cand rest hinv hu hspan hcand hlong hlead
  obtain ⟨-, -, hafter⟩ := storeSpan_split_delim hu
  obtain ⟨t, hexec, hr⟩ := exec_fbExtract_reports hinv
  have hagain := State.extract_failedCandidate hu hspan hcand hlong hlead
  refine ⟨fun f hf => ?_, hagain, fun hfail hshort pre tail hlast htail => ?_⟩
  · obtain ⟨-, -, hrest⟩ := storeSpan_split_delim hafter
    rw [State.extract_long hlong, extractFrom_candidate hu hspan hcand hlead hf] at hr
    obtain ⟨hfin, hout⟩ := hr.frame f rfl
    exact ⟨t, hexec, hfin, hout, hr.unconsumed.trans hrest⟩
  · have hregion : cand ++ 0x00#8 :: rest = (cand ++ pre) ++ 0x00#8 :: tail := by rw [hlast, List.append_assoc]
    rw [hregion] at hafter hshort
    obtain ⟨-, hleft, -⟩ := storeSpan_split_delim hafter
    rw [hagain hfail, hregion, extractFrom_short hafter htail hshort (by simp)] at hr
    obtain ⟨hfin, hlen, -⟩ := hr.noFrame rfl
    exact ⟨t, hexec, hfin, hlen, hr.unconsumed.trans hleft⟩

/-! ### FB_ADD (R185, R186, R187) -/

theorem exec_fbAdd (s : State) : exec .fbAdd s = .next (s.withInput fun m =>
    if s.params.fbCap < (s.fbWr - s.fbCur) + m.length then s.raise .errOverflow
    else ((s.appendToStore m).setRes (BitVec.ofNat 32 m.length)
      (BitVec.ofNat 32 ((s.fbWr - s.fbCur) + m.length)) 0#32).finish .ok) := rfl

/-- Compaction and appending write U and the new bytes from the start of the store on. -/
theorem State.appendToStore_store (s : State) (m : List Byte) :
    (s.appendToStore m).fbStore = Memory.writeBytes s.fbStore 0 (s.unconsumed ++ m) := by
  rw [Memory.writeBytes_append, State.unconsumed_length, Nat.zero_add, State.appendToStore_fbStore]

theorem State.appendToStore_unconsumed {s : State} (h : Memory.wf s.fbStore) (m : List Byte) :
    (s.appendToStore m).unconsumed = s.unconsumed ++ m := by
  have hlen : (s.fbWr - s.fbCur) + m.length - 0 = (s.unconsumed ++ m).length := by simp
  rw [State.unconsumed, State.appendToStore_fbCur, State.appendToStore_fbWr, State.appendToStore_store, hlen]
  exact Memory.slice_writeBytes_same h 0 _

/-- Settles O38: the two errors by `exec_tooLong` and `onlyStatus_raise`, and the new region by
`State.appendToStore_unconsumed`. -/
theorem fbAddAppendsOrRefusesWhole : Obligations.FbAddAppendsOrRefusesWhole := by
  refine ⟨rfl, fun s => exec_tooLong (exec_fbAdd s), fun s hin hfull => ?_, fun s hinv hin hroom => ?_⟩
  · rw [State.unconsumed_length, ← State.inBytes_length] at hfull
    exact ⟨_, (exec_legal (exec_fbAdd s) hin).trans (congrArg _ (if_pos hfull)), onlyStatus_raise s _⟩
  · have hunc := State.appendToStore_unconsumed hinv.storeCanonical s.inBytes
    have hadd := exec_legal (exec_fbAdd s) hin
    rw [if_neg (by simpa using hroom)] at hadd
    refine ⟨_, hadd, finished_of_status rfl, operandsKept_of_writes .., ⟨rfl, fun _ => rfl⟩, rfl, by simp, hunc,
      fun a ha => ?_, ⟨?_, rfl, rfl⟩, fun hempty hex => ?_⟩
    · rw [State.finish_fbStore, State.setRes_fbStore, State.appendToStore_store,
        Memory.read_writeBytes hinv.storeCanonical, if_neg]
      simpa using ha
    · simp [BitVec.ofNat_toNat]
    · have hlen : s.inLen.toNat = 3 := by simpa using congrArg List.length hex
      have hzero : s.fbWr - s.fbCur = 0 := by simpa using congrArg List.length hempty
      refine ⟨hunc.trans (by rw [hempty, hex, List.nil_append]), ?_, ?_, ?_⟩ <;>
        simp [State.readReg, State.fbLenWord, hlen, hzero]

/-! ### FB_PEEK (R199) -/

theorem exec_fbPeek (s : State) : exec .fbPeek s =
    .next (((s.setOut s.unconsumed).setRes (s.readReg .fbLen) 0#32 0#32).finish .ok) := rfl

/-- Settles O41: the frame by `setOut_setRes_finish_frame`, for U fits OUT_LEN (`State.Inv.fbWr_le`). -/
theorem fbPeekCopiesTheUnconsumedRegion : Obligations.FbPeekCopiesTheUnconsumedRegion := by
  refine ⟨rfl, fun s hinv => ?_⟩
  have hlen : s.unconsumed.length < 2 ^ 16 := by
    have := hinv.fbWr_le
    rw [State.unconsumed_length]
    omega
  obtain ⟨hfin, hops, hfb, hout, hres⟩ :=
    setOut_setRes_finish_frame hinv.outCanonical hlen (s.readReg .fbLen) 0#32 0#32 .ok
  refine ⟨_, exec_fbPeek s, hfin, hops, hfb, hout, hres, fun hempty => ?_, fun hex => ⟨hex ▸ hout, ?_⟩⟩
  · simp [hempty]
  · have hthree : s.fbWr - s.fbCur = 3 := by simpa using congrArg List.length hex
    rw [hres.res0, State.readReg, State.fbLenWord, hthree]

/-! ### FB_CLEAR (R198) -/

theorem exec_fbClear (s : State) : exec .fbClear s =
    .next (({ s with fbWr := 0, fbCur := 0 }.setRes (s.readReg .fbLen) 0#32 0#32).finish .ok) := rfl

/-- Settles O40: field by field, since FB_CLEAR writes only FB_WR, FB_CUR, the results and STATUS. -/
theorem fbClearEmptiesTheFramer : Obligations.FbClearEmptiesTheFramer :=
  ⟨rfl, fun s => ⟨_, exec_fbClear s, finished_of_status rfl, operandsKept_of_writes .., ⟨rfl, fun _ => rfl⟩, rfl,
    rfl, rfl, fun _ => rfl, ⟨rfl, rfl, rfl⟩, fun hsix => ⟨hsix, rfl⟩⟩⟩

end Sys2Proof.Machine

/-! SUPPORT. The control command NOP (44_misc.md): what `finish` alone writes, the ERR bit of STATUS as a word, and the proof
of the statement about NOP. -/

namespace Sys2Proof.Machine

/-! ### `finish` and the STATUS word (00_scope.md R12, 10_state.md R26) -/

/-- `raise` is `finish` with an error code, so `finish` with any code writes only STATUS as `raise` does. -/
theorem onlyStatus_finish (s : State) (c : ResultCode) : OnlyStatus s (s.finish c) c := onlyStatus_raise s c

theorem ResultCode.isError_ok : ResultCode.ok.isError = false := rfl

theorem Status.finish_ok (st : Status) : st.finish .ok = ⟨.ok, st.err⟩ := by
  rw [Status.finish, ResultCode.isError_ok, Bool.or_false]

/-- ERR is bit 8 of the word, above the four bits of RESULT and the four reserved zeros. -/
theorem Status.getLsbD_toWord_err (st : Status) : st.toWord.getLsbD 8 = st.err :=
  calc st.toWord.getLsbD 8
    _ = (0#23 ++ BitVec.ofBool st.err ++ 0#4).getLsbD 4 := BitVec.getLsbD_append ..
    _ = (0#23 ++ BitVec.ofBool st.err).getLsbD 0 := BitVec.getLsbD_append ..
    _ = (BitVec.ofBool st.err).getLsbD 0 := BitVec.getLsbD_append ..
    _ = st.err := by simp

/-! ### NOP (R210) -/

theorem exec_nop (s : State) : exec .nop s = .next (s.finish .ok) := rfl

theorem readReg_status_finish_ok (s : State) :
    (s.finish .ok).readReg .status = Status.toWord ⟨.ok, s.status.err⟩ :=
  congrArg Status.toWord s.status.finish_ok

/-- Settles O29: a nonzero MBZ field decodes to no command (`decode_error_of_illegal`), NOP writes only STATUS
(`onlyStatus_finish`), and the example's ERR is bit 8 of its STATUS word. -/
theorem nopOnlyReportsOk : Obligations.NopOnlyReportsOk := by
  refine ⟨rfl, fun v _ hmbz hnop => ?_, fun s => ?_⟩
  · obtain ⟨e, he⟩ := decode_error_of_illegal (.inl hmbz)
    exact nomatch he.symm.trans hnop
  · obtain ⟨hfinished, hoperands, hresults, hout, hframer⟩ := onlyStatus_finish s .ok
    have hkept : (s.finish .ok).status.err = s.status.err := by rw [State.finish_status, Status.finish_ok]
    refine ⟨_, exec_nop s, hfinished, hkept, hoperands, hresults, hout, hframer, fun hword => ?_⟩
    have herr : s.status.err = true := by
      rw [← Status.getLsbD_toWord_err, show s.status.toWord = 0x105#32 from hword]
      rfl
    rw [readReg_status_finish_ok, herr]
    rfl

end Sys2Proof.Machine

/-! SUPPORT. Results and errors of all commands (60_exceptions.md): how every command ends, what that says of STATUS.ERR, and
the proofs of the statements about sticky errors and error atomicity. -/

namespace Sys2Proof.Machine

/-! ### How a command ends (00_scope.md R12, 60_exceptions.md R220 to R223) -/

/-- The only two ways a command that starts in `s` ends in `t`: both leave in STATUS what `finish` does with the result code,
and one that ends with an error code is `raise` and nothing else. -/
structure EndsCommand (s t : State) : Prop where
  status : t.status = s.status.finish t.status.result
  atomic : t.status.result.isError = true → t = s.raise t.status.result

section Endings

variable {s t : State}

theorem EndsCommand.raise (e : ResultCode) : EndsCommand s (s.raise e) := ⟨rfl, fun _ => rfl⟩

/-- An end with code 0 or 1, whatever else the command wrote. -/
theorem EndsCommand.of_finish {c : ResultCode} (h : t.status = s.status.finish c) (hc : c.isError = false) :
    EndsCommand s t where
  status := by rw [h, Status.finish_result]
  atomic herr := by
    rw [h, Status.finish_result, hc] at herr
    contradiction

theorem EndsCommand.of_ok (h : t.status = s.status.finish .ok) : EndsCommand s t := .of_finish h ResultCode.isError_ok

/-- The input check ends the command itself or leaves it to what follows (R224). -/
theorem EndsCommand.withInput {k : List Byte → State} (h : ∀ d, EndsCommand s (k d)) : EndsCommand s (s.withInput k) := by
  obtain ⟨-, hk⟩ | ⟨-, hk⟩ := s.withInput_cases k
  · exact hk ▸ .raise _
  · exact hk ▸ h _

theorem EndsCommand.outResult (b : List Byte) : EndsCommand s (s.outResult b) := .of_ok rfl

theorem EndsCommand.unstuffResult : ∀ r : Option (List Byte), EndsCommand s (s.unstuffResult r)
  | none => .raise .errUnstuff
  | some b => .outResult b

theorem EndsCommand.packetResult (toOut : List Byte → List Byte) :
    ∀ r : Except ResultCode BuiltFrame, EndsCommand s (s.packetResult r toOut)
  | .error e => .raise e
  | .ok _ => .of_ok rfl

/-- FB_EXTRACT ends with code 0 or 1 only (R188, R192). -/
theorem EndsCommand.extractResult : ∀ r : Extracted, EndsCommand s (s.extractResult r)
  | ⟨some _, _⟩ => .of_ok rfl
  | ⟨none, _⟩ => .of_finish (c := .none) rfl rfl

/-- A check whose failure is an error, before an end with code 0. -/
theorem EndsCommand.raise_or_ok {p : Prop} [Decidable p] (e : ResultCode) (h : t.status = s.status.finish .ok) :
    EndsCommand s (if p then s.raise e else t) := by
  split
  · exact .raise e
  · exact .of_ok h

end Endings

theorem exec_endsCommand (i : Instr) (s : State) : ∃ t, exec i s = .next t ∧ EndsCommand s t := by
  cases i with
  | nop => exact ⟨_, exec_nop s, .of_ok rfl⟩
  | crcCompute => exact ⟨_, exec_crcCompute s, .withInput fun _ => .of_ok rfl⟩
  | crcVerify => exact ⟨_, exec_crcVerify s, .withInput fun _ => .of_ok rfl⟩
  | cobsStuff => exact ⟨_, exec_cobsStuff s, .withInput fun _ => .outResult _⟩
  | cobsStuffDelim => exact ⟨_, exec_cobsStuffDelim s, .withInput fun _ => .outResult _⟩
  | cobsUnstuff => exact ⟨_, exec_cobsUnstuff s, .withInput fun _ => .unstuffResult _⟩
  | pktEncode => exact ⟨_, exec_pktEncode s, .withInput fun _ => .packetResult _ _⟩
  | pktBuild => exact ⟨_, exec_pktBuild s, .withInput fun _ => .packetResult _ _⟩
  | pktDecode => exact ⟨_, exec_pktDecode s, .withInput fun _ => .of_ok rfl⟩
  | fbAdd => exact ⟨_, exec_fbAdd s, .withInput fun _ => .raise_or_ok .errOverflow rfl⟩
  | fbExtract => exact ⟨_, exec_fbExtract s, .extractResult _⟩
  | fbClear => exact ⟨_, exec_fbClear s, .of_ok rfl⟩
  | fbPeek => exact ⟨_, exec_fbPeek s, .of_ok rfl⟩

theorem EndsCommand.of_exec {i : Instr} {s t : State} (h : exec i s = .next t) : EndsCommand s t := by
  obtain ⟨t', hexec, hends⟩ := exec_endsCommand i s
  cases h.symm.trans hexec
  exact hends

/-! ### Error atomicity (R223) -/

/-- Settles O23: a command that ends with an error code is `raise` (`EndsCommand.atomic`), as the illegal command is, and
`raise` writes only STATUS (`onlyStatus_raise`). -/
theorem errorsWriteOnlyStatus : Obligations.ErrorsWriteOnlyStatus := by
  refine ⟨fun i s t h herr => ?_, fun s => ⟨_, rfl, onlyStatus_raise s _⟩⟩
  have hraise : t = s.raise t.status.result := (EndsCommand.of_exec h).atomic (decide_eq_true herr)
  exact hraise ▸ onlyStatus_raise s _

/-! ### The sticky error bit (R222) -/

section StickyError

variable {s : State}

/-- `finish` sets ERR or keeps it. -/
theorem Status.finish_err_of_err {st : Status} (h : st.err = true) (c : ResultCode) : (st.finish c).err = true := by
  rw [Status.finish_err, h, Bool.true_or]

theorem State.writeReg_status_of_ne {r : Reg} (hr : r ≠ .status) (v : Word) : (s.writeReg r v).status = s.status := by
  cases r with
  | status => contradiction
  | _ => rfl

/-- A write clears ERR only at STATUS, and only with bit 8 of the value 1 (10_state.md R26). -/
theorem State.writeLocation_clears_err {l : Location} {n : Nat} {v : Word}
    (hclear : (s.writeLocation l n v).status.err = false) (hset : s.status.err = true) : l = .register .status ∧ v.getLsbD 8 = true := by
  have hsame (hst : (s.writeLocation l n v).status = s.status) : False := by simp [hst, hset] at hclear
  cases l with
  | register r =>
    rcases eq_or_ne r .status with rfl | hr
    · have herr : (s.status.err && !v.getLsbD 8) = false := hclear
      rw [hset] at herr
      exact ⟨rfl, by simpa using herr⟩
    · exact (hsame (State.writeReg_status_of_ne hr v)).elim
  | inByte _ => exact (hsame rfl).elim
  | outByte _ => exact (hsame rfl).elim
  | hole => exact (hsame rfl).elim

end StickyError

/-- Settles O22: a command leaves in STATUS what `finish` does (`EndsCommand.status`). Of the cases of a step, waiting and a
read keep STATUS, a legal or illegal command never clears ERR, and a write does only as `State.writeLocation_clears_err`
says; reset is the one left. -/
theorem errIsSticky : Obligations.ErrIsSticky := by
  refine ⟨fun i s t h => finished_of_status (EndsCommand.of_exec h).status, fun s t h hset hclear => ?_⟩
  obtain ⟨-, rfl⟩ | ⟨_, _, _, _, -, -, rfl⟩ | ⟨_, _, v, rest, _, hhost, hloc, -, rfl⟩ | ⟨_, _, _, -, -, hexec⟩ |
    ⟨_, _, _, -, -, rfl⟩ | ⟨a, b, c, rest, hhost, -⟩ := step_next_cases h
  case inr.inr.inl =>
    obtain ⟨rfl, hbit⟩ := State.writeLocation_clears_err hclear hset
    obtain ⟨rfl, rfl⟩ := checkAddress_register hloc
    exact .inl ⟨v, rest, hhost, hbit⟩
  case inr.inr.inr.inl =>
    rw [(EndsCommand.of_exec hexec).status, Status.finish_err_of_err hset] at hclear
    contradiction
  case inr.inr.inr.inr.inl =>
    rw [State.raise_status, Status.finish_err_of_err hset] at hclear
    contradiction
  case inr.inr.inr.inr.inr => exact .inr ⟨a, b, c, rest, hhost⟩
  all_goals exact absurd (hset.symm.trans hclear) nofun

end Sys2Proof.Machine

/-! SUPPORT. Stuffing undone (41_cobs.md): Unstuff gives back what Stuff took, the length of Stuff when there is nothing to
stuff, and the proofs of the statements about the codec. -/

namespace Sys2Proof.Machine

/-! ### Unstuff after Stuff (R134) -/

theorem codeByte_toNat {n : Nat} (h : n < 255) : (codeByte n).toNat = n + 1 := by
  rw [codeByte, BitVec.toNat_ofNat]
  omega

theorem codeByte_ne_full {n : Nat} (h : n < 254) : codeByte n ≠ 0xFF#8 := by
  intro hfull
  have hval : (codeByte n).toNat = 255 := by rw [hfull]; rfl
  rw [codeByte_toNat (by omega)] at hval
  omega

theorem stuffFrom_ne_nil (blk d : List Byte) : stuffFrom blk d ≠ [] :=
  List.ne_nil_of_length_pos (Nat.zero_lt_of_lt (lt_stuffFrom_length blk d))

/-- The loop of Unstuff on the loop of Stuff: the block collected, then the bytes that were still to come. -/
theorem unstuffFrom_stuffFrom {blk d : List Byte} {f : Nat} (hblk : blk.length < 254) (h0 : 0x00#8 ∉ blk)
    (hfuel : (stuffFrom blk d).length ≤ f) : unstuffFrom f (stuffFrom blk d) = some (blk ++ d) := by
  induction d generalizing blk f with
  | nil =>
    rw [stuffFrom_nil, List.length_cons] at hfuel
    obtain ⟨g, rfl⟩ : ∃ g, f = g + 1 := ⟨f - 1, by omega⟩
    have hgroup := unstuffFrom_group (codeByte_toNat (by omega)) h0 g []
    rw [List.append_nil] at hgroup
    rw [stuffFrom_nil, hgroup]
    simp
  | cons x rest ih =>
    by_cases hx : x = 0x00#8
    · subst hx
      rw [stuffFrom_delim, List.length_cons, List.length_append] at hfuel
      obtain ⟨g, rfl⟩ : ∃ g, f = g + 1 := ⟨f - 1, by omega⟩
      rw [stuffFrom_delim, unstuffFrom_group (codeByte_toNat (by omega)) h0, ih (by simp) (by simp) (by omega)]
      simp [codeByte_ne_full hblk, stuffFrom_ne_nil]
    · have hblk' : 0x00#8 ∉ blk ++ [x] := by simp [h0, Ne.symm hx]
      by_cases hfull : blk.length + 1 = 254
      · have hstuff : stuffFrom blk (x :: rest) =
            0xFF#8 :: ((blk ++ [x]) ++ if rest = [] then [] else stuffFrom [] rest) := by
          rw [stuffFrom_full hx hfull, List.append_assoc, List.singleton_append]
        rw [hstuff, List.length_cons, List.length_append] at hfuel
        obtain ⟨g, rfl⟩ : ∃ g, f = g + 1 := ⟨f - 1, by omega⟩
        have hrest : unstuffFrom g (if rest = [] then [] else stuffFrom [] rest) = some rest := by
          split
          · next hnil => rw [hnil, unstuffFrom_nil]
          · next hne =>
            rw [if_neg hne] at hfuel
            exact ih (by simp) (by simp) (by omega)
        rw [hstuff, unstuffFrom_group (by simp [hfull]) hblk', hrest]
        simp
      · rw [stuffFrom_data hx hfull] at hfuel ⊢
        rw [ih (by simp; omega) hblk' hfuel, List.append_assoc, List.singleton_append]

/-- The whole of Stuff is its loop with an empty block. -/
theorem unstuff_stuff (d : List Byte) : unstuff (stuff d) = some d :=
  (if_neg (stuffFrom_ne_nil [] d)).trans (unstuffFrom_stuffFrom (by simp) (by simp) (Nat.le_refl _))

/-- Settles O48, by induction over the blocks of Stuff (`unstuffFrom_stuffFrom`). -/
theorem unstuffUndoesStuff : Obligations.UnstuffUndoesStuff := unstuff_stuff

/-! ### The length of Stuff (R133) -/

/-- With no byte to replace, every block but the last is full. -/
theorem stuffFrom_length_of_noDelim {blk d : List Byte} (hblk : blk.length < 254) (h0 : 0x00#8 ∉ d)
    (hpos : 1 ≤ blk.length + d.length) :
    (stuffFrom blk d).length = (blk.length + d.length) + 1 + (blk.length + d.length - 1) / 254 := by
  induction d generalizing blk with
  | nil =>
    rw [stuffFrom_nil, List.length_cons, List.length_nil]
    omega
  | cons x rest ih =>
    obtain ⟨hx, hrest⟩ := List.ne_and_not_mem_of_not_mem_cons h0
    by_cases hfull : blk.length + 1 = 254
    · rw [stuffFrom_full hx.symm hfull]
      cases rest with
      | nil => simp [hfull]
      | cons y ys =>
        have hnext := ih (blk := []) (by simp) hrest (by simp)
        simp only [reduceCtorEq, if_false, List.length_cons, List.length_append, List.length_nil] at hnext ⊢
        omega
    · have hlen : (blk ++ [x]).length = blk.length + 1 := by simp
      have hnext := ih (blk := blk ++ [x]) (by omega) hrest (by omega)
      rw [stuffFrom_data hx.symm hfull, hnext, hlen, List.length_cons]
      omega

/-- Settles O47: the bytes of Stuff by `delim_not_mem_stuff`, its length by `stuff_length_le`, `lt_stuff_length` and
`stuffFrom_length_of_noDelim`, and the length of Unstuff by `unstuff_length_le`. -/
theorem stuffingHasNoDelimiterAndIsShort : Obligations.StuffingHasNoDelimiterAndIsShort := by
  refine ⟨delim_not_mem_stuff, stuff_nil, fun d => Nat.one_le_of_lt (lt_stuff_length d), fun d _ => stuff_length_le d,
    fun d hpos h0 => ?_, fun f hf => ?_, fun _ _ => unstuff_length_le⟩
  · simpa [stuff] using stuffFrom_length_of_noDelim (blk := []) (by simp) h0 (by simpa using hpos)
  · have := stuff_length_le f
    omega

end Sys2Proof.Machine

/-! SUPPORT. A packet through the codec and back (42_packet.md): the fields of a built frame as the decoder reads them, and the
proof of the statement about the round trip. -/

namespace Sys2Proof.Machine

/-! ### The fields of a built frame (R152 to R154) -/

/-- Bit 7 of the control byte is the type, for a legal identifier leaves it free. -/
theorem controlByte_type {dev : Byte} (h : dev.toNat ≤ 31) (ty : PacketType) :
    (controlByte ty dev).getLsbD 7 = decide (ty = .tc) := by
  have hdev : dev.getLsbD 5 = false := Nat.testBit_lt_two_pow (by omega)
  rw [BitVec.getLsbD_eq_getElem (by omega)] at hdev
  by_cases hty : ty = .tc <;> simp [controlByte, hty, hdev]

/-- Bits [6:2] of the control byte are the identifier. -/
theorem controlByte_deviceId (ty : PacketType) (dev : Byte) :
    (controlByte ty dev).extractLsb' 2 5 = dev.setWidth 5 := by
  have htype : (if ty = .tc then 0x80#8 else 0x00#8).extractLsb' 2 5 = 0#5 := by split <;> rfl
  rw [controlByte, BitVec.extractLsb'_or, htype, BitVec.or_zero]
  ext k hk
  have h8 : 2 + k < 8 := by omega
  have h1 : ¬ 2 + k ≤ 1 := by omega
  simp [h8, h1, BitVec.getLsbD_eq_getElem (show k < 8 by omega)]

/-- The five timestamp bytes, put together again. -/
theorem timestampBytes_append (ts : DWord) :
    (ts.extractLsb' 32 8 ++ ts.extractLsb' 24 8 ++ ts.extractLsb' 16 8 ++ ts.extractLsb' 8 8 ++ ts.extractLsb' 0 8 :
      BitVec (8 + 8 + 8 + 8 + 8)) = ts.setWidth 40 := by
  rw [BitVec.extractLsb'_append_extractLsb'_eq_extractLsb' (start₁ := 24) (len₁ := 8) rfl,
    BitVec.extractLsb'_append_extractLsb'_eq_extractLsb' (start₁ := 16) (len₁ := 8) rfl,
    BitVec.extractLsb'_append_extractLsb'_eq_extractLsb' (start₁ := 8) (len₁ := 8) rfl,
    BitVec.extractLsb'_append_extractLsb'_eq_extractLsb' (start₁ := 0) (len₁ := 8) rfl,
    BitVec.setWidth_eq_extractLsb' (by decide)]

/-- The payload is what stands between the header and the checksum. -/
theorem frameOf_payload (be : Bool) (ty : PacketType) (dev : Byte) (ts : DWord) (p : List Byte) :
    ((frameOf be ty dev ts p).bytes.drop 8).take p.length = p := by
  rw [frameOf, List.append_assoc]
  exact (congrArg (List.take p.length) (List.drop_left' (header_length ty dev ts p.length))).trans List.take_left

/-- DecodeFrame on BuildFrame (R157, R165): Unknown has TM's control byte. -/
theorem decodeFrame_frameOf {dev : Byte} {p : List Byte} (be : Bool) (ty : PacketType) (ts : DWord)
    (hdev : dev.toNat ≤ 31) (hp : p.length ≤ 255) : decodeFrame (frameOf be ty dev ts p).bytes =
      { type := if ty = .tc then .tc else .tm, deviceId := dev.setWidth 5, timestamp := ts.setWidth 40, payload := p,
        reason := .none } := by
  have hlen : ((frameOf be ty dev ts p).bytes.getD 1 0x00#8).toNat + 10 = (frameOf be ty dev ts p).bytes.length := by
    have hbyte : (frameOf be ty dev ts p).bytes.getD 1 0x00#8 = BitVec.ofNat 8 p.length := rfl
    rw [hbyte, frameOf_length, BitVec.toNat_ofNat]
    omega
  have hcontrol : (frameOf be ty dev ts p).bytes.getD 2 0x00#8 = controlByte ty dev := rfl
  have hpayload : (frameOf be ty dev ts p).bytes.length - 10 = p.length := by
    rw [frameOf_length]
    omega
  rw [decodeFrame_good rfl hlen, hcontrol, controlByte_type hdev, controlByte_deviceId, hpayload, frameOf_payload]
  simp only [decide_eq_true_eq]
  exact congrArg (fun x => Packet.mk _ _ x p .none) (timestampBytes_append ts)

/-- Settles O49: Unstuff undoes Stuff (`unstuff_stuff`), and DecodeFrame undoes BuildFrame (`decodeFrame_frameOf`). -/
theorem encodedPacketsDecodeBack : Obligations.EncodedPacketsDecodeBack := by
  intro be lead ty dev ts p hdev _ hp
  refine ⟨stuff (frameOf be ty dev ts p).bytes, ?_, delim_not_mem_stuff _, ?_⟩
  · cases lead <;> rfl
  · rw [unstuff_stuff, Option.map_some, decodeFrame_frameOf be ty ts hdev hp]

end Sys2Proof.Machine

/-! SUPPORT. The decoder over all CMD values, the accesses that are bus errors, what a register reads as, and the proofs of the
statements about them (30_encoding.md R92, R93; 20_memory.md R60 to R67; 10_state.md R22 to R33). -/

namespace Sys2Proof

/-! ### Decode is exact (R92, R93) -/

theorem decode_encode (i : Instr) : decode (encode i) = .ok i := by cases i <;> rfl

/-- Settles O6, one command at a time. -/
theorem decodeOfEncodeIsTheCommand : Obligations.DecodeOfEncodeIsTheCommand := fun i _ => decode_encode i

theorem cmdWellFormed_iff (v : Word) :
    cmdWellFormed v = true ↔ mbzField v = 0#24 ∧ opcodeField v ∈ listedOpcodes := by
  simp [cmdWellFormed, mbzClear, opcodeListed, mbzField, opcodeField]

/-- The values that decode are those with MBZ zero and a listed OPCODE. -/
theorem listed_of_decode_ok {v : Word} {i : Instr} (h : decode v = .ok i) :
    mbzField v = 0#24 ∧ opcodeField v ∈ listedOpcodes := by
  by_contra hbad
  obtain ⟨e, he⟩ := decode_error_of_illegal (not_and_or.mp hbad)
  cases h.symm.trans he

/-- Settles O7: a value that decodes is listed (`listed_of_decode_ok`), and a listed one is the word of the command it decodes
to (`decode_ok_of_listed`). -/
theorem decodeIsExact : Obligations.DecodeIsExact := by
  refine ⟨fun v i => ⟨fun h => ?_, fun h => h ▸ decode_encode i⟩, fun v => ?_⟩
  · obtain ⟨hmbz, hop⟩ := listed_of_decode_ok h
    obtain ⟨j, hj, hword⟩ := decode_ok_of_listed hmbz hop
    cases h.symm.trans hj
    exact hword.symm
  · rw [cmdWellFormed_iff]
    refine ⟨fun ⟨i, h⟩ => listed_of_decode_ok h, fun ⟨hmbz, hop⟩ => ?_⟩
    obtain ⟨i, h, -⟩ := decode_ok_of_listed hmbz hop
    exact ⟨i, h⟩

/-- Settles O8: the legal words are words of commands (`decode_encode`), and the last two are refused by MBZ and by OPCODE. -/
theorem writtenOutWordsDecode : Obligations.WrittenOutWordsDecode :=
  ⟨decode_encode .nop, decode_encode .crcVerify, decode_encode .cobsUnstuff, decode_encode .pktEncode,
    decode_encode .pktBuild, decode_encode .fbExtract, rfl, rfl⟩

/-- A 32-bit word of the opcode table is its own CMD value. -/
theorem tableWord_toNat (v : Word) : tableWord 32 v.toNat = v := by
  rw [tableWord, Nat.mod_eq_of_lt v.isLt, BitVec.ofNat_toNat, BitVec.setWidth_eq]

end Sys2Proof

namespace Sys2Proof.Machine

/-! ### A step that runs a command, or waits (R90, R20) -/

/-- Settles O9: the step runs the written value (`step_commandWrite`), which is the command it decodes to. -/
theorem stepRunsTheDecodedCommand : Obligations.StepRunsTheDecodedCommand := fun _ _ _ _ h hd =>
  (step_commandWrite h).trans (runCommand_of_decode_ok hd _)

/-- Settles O10: the word placed is a command's word, so the step runs that command (`stepRunsTheDecodedCommand`). -/
theorem fetchWordRunsNext : Obligations.FetchWordRunsNext := by
  intro s i
  have hword : tableWord 32 (encode i).toNat = encode i := tableWord_toNat _
  refine ⟨stepRunsTheDecodedCommand (s.withFetchWord 32 (encode i).toNat) (encode i) i s.host ?_ (decode_encode i), ?_⟩
  · rw [NextIsCommand, State.withFetchWord_host, hword]
    rfl
  · rw [decodeTableWord, hword, decode_encode]

/-- Settles O12: the case of no event in `stepHost`. -/
theorem idleStepChangesNothing : Obligations.IdleStepChangesNothing := by
  intro s h
  rw [step, stepHost, h]

/-! ### The accesses that are bus errors (R60, R62, R63, R64, R67) -/

/-- Everything an access that passes the check can be: an aligned 32-bit access to a register, or an access of a legal width
and alignment that lies wholly in IN_BUF or wholly in OUT_BUF. -/
theorem checkAccess_ok_cases {p : Params} {o n : Nat} {l : Location} (hin : p.inCap ≤ 0x1000)
    (h : checkAccess p o n = .ok l) :
    (o < 0x40 ∧ n = 4 ∧ o % 4 = 0) ∨
    (∃ i, l = .inByte i ∧ o = 0x1000 + i ∧ bufferAccessLegal o n = true ∧ i + n ≤ p.inCap) ∨
    (∃ i, l = .outByte i ∧ o = 0x2000 + i ∧ bufferAccessLegal o n = true ∧ i + n ≤ p.outCap) := by
  by_cases hreg : o < 0x40
  · simp only [checkAccess, locate_register p hreg] at h
    split at h
    · next ha => exact .inl ⟨hreg, ha⟩
    · cases h
  · by_cases hib : 0x1000 ≤ o ∧ o < 0x1000 + p.inCap
    · simp only [checkAccess, locate_inByte hib.1 hib.2] at h
      split at h
      · next ha =>
        split at h
        · next hend =>
          cases h
          exact .inr (.inl ⟨_, rfl, by omega, ha, hend⟩)
        · cases h
      · cases h
    · by_cases hob : 0x2000 ≤ o ∧ o < 0x2000 + p.outCap
      · simp only [checkAccess, locate_outByte hin hob.1 hob.2] at h
        split at h
        · next ha =>
          split at h
          · next hend =>
            cases h
            exact .inr (.inr ⟨_, rfl, by omega, ha, hend⟩)
          · cases h
        · cases h
      · rw [checkAccess, locate_hole (by omega) hib hob] at h
        cases h

/-- An access that passes the check is legal: every byte of it is on a register or in one buffer. -/
theorem legalAccess_of_checkAccess {p : Params} {o n : Nat} {l : Location} (hin : p.inCap ≤ 0x1000)
    (h : checkAccess p o n = .ok l) : LegalAccess p o n := by
  obtain ⟨hreg, hn, halign⟩ | ⟨i, -, rfl, hlegal, hend⟩ | ⟨i, -, rfl, hlegal, hend⟩ := checkAccess_ok_cases hin h
  · refine ⟨fun k hk => ?_, fun _ => ⟨hn, halign⟩, fun _ => by omega⟩
    rw [locate_register p (by omega)]
    exact nofun
  · refine ⟨fun k hk => ?_, fun _ => by omega, fun _ => bufferAccessLegal_iff.mp hlegal⟩
    rw [locate_inByte (by omega) (by omega)]
    exact nofun
  · refine ⟨fun k hk => ?_, fun _ => by omega, fun _ => bufferAccessLegal_iff.mp hlegal⟩
    rw [locate_outByte hin (by omega) (by omega)]
    exact nofun

/-- A legal access passes the check, by the range its first byte is in. -/
theorem checkAddress_of_legalAccess {p : Params} (hp : p.wf = true) {o n : Nat} (hn : 1 ≤ n) (h : LegalAccess p o n) :
    ∃ l, checkAddress p (p.base + o) n = .ok l := by
  have hfirst := h.mapped 0 (by omega)
  by_cases hreg : o < 0x40
  · obtain ⟨rfl, halign⟩ := h.register hreg
    have ho : o = (regAt (o / 4)).offset := by
      rw [offset_regAt _ (by omega)]
      omega
    rw [ho]
    exact ⟨_, checkAddress_reg p _⟩
  · by_cases hib : 0x1000 ≤ o ∧ o < 0x1000 + p.inCap
    · obtain ⟨i, rfl⟩ := Nat.exists_eq_add_of_le hib.1
      exact ⟨_, checkAddress_inByte hp (by omega) h⟩
    · by_cases hob : 0x2000 ≤ o ∧ o < 0x2000 + p.outCap
      · obtain ⟨i, rfl⟩ := Nat.exists_eq_add_of_le hob.1
        exact ⟨_, checkAddress_outByte hp h⟩
      · exact absurd (locate_hole (by omega) hib hob) hfirst

section Faults

variable {s : State} {addr n : Nat} {rest : List HostEvent}

/-- The host's next event is an access of `n` bytes at `addr`. -/
def NextIsAccess (s : State) (addr n : Nat) (rest : List HostEvent) : Prop :=
  s.host = .read addr n :: rest ∨ ∃ v, s.host = .write addr n v :: rest

/-- An access that the check refuses stops the step with that fault. -/
theorem step_fault {f : Fault} (h : NextIsAccess s addr n rest) (hf : checkAddress s.params addr n = .error f) :
    step s = .fault f := by
  rcases h with h | ⟨v, h⟩ <;> simp only [step, stepHost, h, perform, hostRead, hostWrite, hf]

/-- The check alone decides whether the step stops: with its fault, or not at all. -/
theorem step_access_cases (h : NextIsAccess s addr n rest) :
    (∃ f, checkAddress s.params addr n = .error f ∧ step s = .fault f) ∨
    (∃ l t, checkAddress s.params addr n = .ok l ∧ step s = .next t) := by
  cases hc : checkAddress s.params addr n with
  | error f => exact .inl ⟨f, rfl, step_fault h hc⟩
  | ok l =>
    rcases h with h | ⟨v, h⟩
    · exact .inr ⟨l, _, rfl, step_read h hc⟩
    · obtain ⟨t, ht⟩ := commitWrite_next l n v { s with host := rest, response := .written }
      exact .inr ⟨l, t, rfl, by simp only [step, stepHost, h, perform, hostWrite, hc, ht]⟩

/-- A host that goes on takes the access off its list and finds the error at its port (log 4). -/
theorem carryOn_of_fault {f : Fault} (h : NextIsAccess s addr n rest) (hf : step s = .fault f) :
    carryOn s = .next { s with host := rest, response := .busError } := by
  have hf' : stepHost s = .fault f := hf
  have htail : s.host.tail = rest := by rcases h with h | ⟨v, h⟩ <;> rw [h, List.tail_cons]
  simp only [carryOn, carryOnHost, hf', State.afterBusError, htail]

theorem carryOn_of_next {t : State} (ht : step s = .next t) : carryOn s = .next t := by
  have ht' : stepHost s = .next t := ht
  rw [carryOn, carryOnHost, ht']

end Faults

/-- Settles O14: the check refuses exactly the accesses that are not legal (`legalAccess_of_checkAccess`,
`checkAddress_of_legalAccess`), and it alone decides how the step ends (`step_access_cases`). -/
theorem illegalAccessIsABusError : Obligations.IllegalAccessIsABusError := by
  intro s o n v rest hp ho hn h
  obtain ⟨-, -, -, hin, -⟩ := Params.wf_bounds hp
  have haccess : NextIsAccess s (s.params.base + o) n rest := h.imp_right (⟨v, ·⟩)
  refine ⟨fun hillegal => ?_, fun hlegal => ?_⟩
  · obtain ⟨f, -, hf⟩ | ⟨l, t, hl, -⟩ := step_access_cases haccess
    · exact ⟨⟨f, hf⟩, carryOn_of_fault haccess hf⟩
    · rw [checkAddress_window s.params ho] at hl
      exact absurd (legalAccess_of_checkAccess hin hl) hillegal
  · obtain ⟨l, hl⟩ := checkAddress_of_legalAccess hp hn hlegal
    obtain ⟨f, hf, -⟩ | ⟨-, t, -, ht⟩ := step_access_cases haccess
    · cases hl.symm.trans hf
    · exact ⟨t, ht, carryOn_of_next ht⟩

/-- Settles O15: the window's check comes before every other. -/
theorem accessOutsideTheWindowFaults : Obligations.AccessOutsideTheWindowFaults := by
  intro s addr n v rest h hout
  have hwin : ¬ (s.params.base ≤ addr ∧ addr < s.params.base + 0x4000) := by omega
  have hc : checkAddress s.params addr n = .error (.outsideWindow addr) := if_neg hwin
  exact step_fault (h.imp_right (⟨v, ·⟩)) hc

/-- Everything that can stop a step: an access that the check refuses. A step with no event, or with a reset, answers a next
state. -/
theorem step_cases (s : State) :
    (∃ t, step s = .next t) ∨
    (∃ addr n f rest, NextIsAccess s addr n rest ∧ checkAddress s.params addr n = .error f ∧ step s = .fault f) := by
  by_cases haccess : ∃ addr n rest, NextIsAccess s addr n rest
  · obtain ⟨addr, n, rest, h⟩ := haccess
    obtain ⟨f, hf, hstep⟩ | ⟨-, t, -, ht⟩ := step_access_cases h
    · exact .inr ⟨addr, n, f, rest, h, hf, hstep⟩
    · exact .inl ⟨t, ht⟩
  · left
    rcases hhost : s.host with - | ⟨e, rest⟩
    · exact ⟨s, idleStepChangesNothing s hhost⟩
    · cases e with
      | read addr n => exact absurd ⟨addr, n, rest, .inl hhost⟩ haccess
      | write addr n v => exact absurd ⟨addr, n, rest, .inr ⟨v, hhost⟩⟩ haccess
      | reset a b c => exact ⟨_, by rw [step, stepHost, hhost]; exact perform_reset _ a b c⟩

/-- Settles O16: the two ways a step ends (`step_cases`). -/
theorem onlyHostAccessesFault : Obligations.OnlyHostAccessesFault := by
  refine ⟨fun s f hf => ?_, fun s r hr => ?_⟩
  · obtain ⟨t, ht⟩ | ⟨addr, n, g, rest, hhost, hg, hstep⟩ := step_cases s
    · cases ht.symm.trans hf
    · cases hstep.symm.trans hf
      exact ⟨addr, n, rest, hhost, hg⟩
  · obtain ⟨t, ht⟩ | ⟨-, -, f, -, -, -, hf⟩ := step_cases s
    · cases ht.symm.trans hr
    · cases hf.symm.trans hr

/-! ### What a register reads as (R22 to R33) -/

/-- CTRL has CRC_BE in bit 0, ENC_LEAD in bit 1 and zeros above (R24). -/
theorem Ctrl.toWord_fields (c : Ctrl) :
    c.toWord.getLsbD 0 = c.crcBe ∧ c.toWord.getLsbD 1 = c.encLead ∧ c.toWord.extractLsb' 2 30 = 0#30 := by
  obtain ⟨crcBe, encLead⟩ := c
  cases crcBe <;> cases encLead <;> decide

/-- STATUS has RESULT in bits [3:0], ERR in bit 8 and zeros elsewhere (R26). -/
theorem Status.toWord_fields (st : Status) :
    st.toWord.extractLsb' 0 4 = st.result.code ∧ st.toWord.extractLsb' 4 4 = 0#4 ∧ st.toWord.getLsbD 8 = st.err ∧
      st.toWord.extractLsb' 9 23 = 0#23 := by
  obtain ⟨result, err⟩ := st
  cases err <;> cases result <;> decide

/-- A length register has LEN in its low half and zeros above (R27, R28). -/
theorem setWidth_half_fields (h : Half) :
    (h.setWidth 32).extractLsb' 0 16 = h ∧ (h.setWidth 32).extractLsb' 16 16 = 0#16 := by
  constructor
  · ext k hk
    simp [BitVec.getLsbD_eq_getElem hk, show k < 32 by omega]
  · ext k hk
    simp

/-- Settles O20: an aligned 32-bit read answers `readReg` (`step_read`), whose fields are those of the map. -/
theorem registersReadAsTheMapSays : Obligations.RegistersReadAsTheMapSays := by
  intro s r rest h
  have hfbLen : r = .fbLen → s.readReg r = BitVec.ofNat 32 s.unconsumed.length := fun hr =>
    hr ▸ congrArg (BitVec.ofNat 32) s.unconsumed_length.symm
  exact ⟨s.readReg r, step_read h (checkAddress_reg s.params r), fun hr => hr ▸ rfl, fun hr => hr ▸ s.ctrl.toWord_fields,
    fun hr => hr ▸ rfl, fun hr => hr ▸ s.status.toWord_fields, fun hr => hr ▸ setWidth_half_fields s.inLen,
    fun hr => hr ▸ setWidth_half_fields s.outLen, fun hr => hr ▸ rfl, fun hr => hr ▸ rfl, fun hr => hr ▸ rfl,
    fun hr => hr ▸ rfl, fun hr => hr ▸ rfl, fun hr => hr ▸ rfl, hfbLen, fun hr => hr ▸ rfl, fun hr => hr ▸ rfl,
    fun hr => hr ▸ rfl⟩

end Sys2Proof.Machine

/-! SUPPORT. Extract() as a function of the unconsumed region (43_framer.md R189 to R200): the ways a region begins, the result
for each, what is left when none is returned, and the proofs of the statements about the leading span and about draining. -/

namespace Sys2Proof.Machine

/-! ### The ways a region begins (R191 to R195) -/

/-- The cases that one pass of Extract() tells apart in the bytes `u` it scans. -/
inductive RegionCase (be : Bool) : List Byte → Prop
  | noDelim {u : List Byte} (h0 : 0x00#8 ∉ u) : RegionCase be u
  | leading {span rest f : List Byte} (hspan : 0x00#8 ∉ span) (hlen : 10 ≤ span.length)
      (hf : verify be span = some f) : RegionCase be (span ++ 0x00#8 :: rest)
  | trailing {span tail f : List Byte} (hspan : 0x00#8 ∉ span) (htail : 0x00#8 ∉ tail)
      (hlead : span.length < 10 ∨ verify be span = none) (hlen : 10 ≤ tail.length) (hf : verify be tail = some f) :
      RegionCase be (span ++ 0x00#8 :: tail)
  | failedTail {span tail : List Byte} (hspan : 0x00#8 ∉ span) (htail : 0x00#8 ∉ tail)
      (hlead : span.length < 10 ∨ verify be span = none) (hfail : tail.length < 10 ∨ verify be tail = none) :
      RegionCase be (span ++ 0x00#8 :: tail)
  | candidate {span cand rest f : List Byte} (hspan : 0x00#8 ∉ span) (hcand : 0x00#8 ∉ cand)
      (hlead : span.length < 10 ∨ verify be span = none) (hf : verify be cand = some f) :
      RegionCase be (span ++ 0x00#8 :: (cand ++ 0x00#8 :: rest))
  | failedCandidate {span cand rest : List Byte} (hspan : 0x00#8 ∉ span) (hcand : 0x00#8 ∉ cand)
      (hlead : span.length < 10 ∨ verify be span = none) (hfail : verify be cand = none) :
      RegionCase be (span ++ 0x00#8 :: (cand ++ 0x00#8 :: rest))

/-- A span is long enough and verifies, or it is no frame. -/
theorem verify_long_cases (be : Bool) (span : List Byte) :
    (∃ f, 10 ≤ span.length ∧ verify be span = some f) ∨ (span.length < 10 ∨ verify be span = none) := by
  rcases Nat.lt_or_ge span.length 10 with hshort | hlong
  · exact .inr (.inl hshort)
  · cases hv : verify be span with
    | none => exact .inr (.inr rfl)
    | some f => exact .inl ⟨f, hlong, rfl⟩

theorem regionCase (be : Bool) (u : List Byte) : RegionCase be u := by
  by_cases h0 : 0x00#8 ∈ u
  · obtain ⟨span, rest, rfl, hspan⟩ := List.eq_append_cons_of_mem h0
    obtain ⟨f, hlen, hf⟩ | hlead := verify_long_cases be span
    · exact .leading hspan hlen hf
    · by_cases h1 : 0x00#8 ∈ rest
      · obtain ⟨cand, rest, rfl, hcand⟩ := List.eq_append_cons_of_mem h1
        cases hv : verify be cand with
        | some f => exact .candidate hspan hcand hlead hv
        | none => exact .failedCandidate hspan hcand hlead hv
      · obtain ⟨f, hlen, hf⟩ | hfail := verify_long_cases be rest
        · exact .trailing hspan h1 hlead hlen hf
        · exact .failedTail hspan h1 hlead hfail
  · exact .noDelim h0

/-! ### The result for a region (R189, R193) -/

section Region

variable {be : Bool} {st : Memory} {wr cur : Nat}

/-- S3a: the leading span verifies. -/
theorem extractFrom_leading {span rest f : List Byte} (h : storeSpan st cur wr = span ++ 0x00#8 :: rest)
    (hspan : 0x00#8 ∉ span) (hlen : 10 ≤ span.length) (hf : verify be span = some f) (k : Nat) :
    extractFrom be st wr (k + 1) cur = { frame := some f, cursor := cur + span.length + 1 } := by
  obtain ⟨hl, -, -⟩ := storeSpan_split_delim h
  have hlong : Config.minFrame ≤ cur + span.length - cur := by
    rw [Nat.add_sub_cancel_left]
    exact hlen
  have hlead : leadingFrame be st cur (cur + span.length) = some f := by rw [leadingFrame, if_pos hlong, hl, hf]
  simp only [extractFrom, firstDelim_eq_some h hspan, hlead]

/-- Where the region stands in the store does not matter: the frame, and the number of bytes consumed, are the same for
every store that holds it (10_state.md R38). -/
theorem extractFrom_of_region (be : Bool) (k : Nat) (u : List Byte) : ∃ frame n, ∀ (st : Memory) (wr cur : Nat),
    cur ≤ wr → storeSpan st cur wr = u → extractFrom be st wr k cur = { frame := frame, cursor := cur + n } := by
  induction k generalizing u with
  | zero => exact ⟨none, 0, fun _ _ _ _ _ => rfl⟩
  | succ k ih =>
    have hend (st : Memory) (wr cur : Nat) (hcur : cur ≤ wr) (h : storeSpan st cur wr = u) : wr = cur + u.length := by
      have := storeSpan_length st cur wr
      rw [h] at this
      omega
    cases regionCase be u with
    | noDelim h0 =>
      refine ⟨none, u.length, fun st wr cur hcur h => ?_⟩
      rw [extractFrom_noDelim (h ▸ h0), hend st wr cur hcur h]
    | @leading span rest f hspan hlen hf =>
      exact ⟨some f, span.length + 1, fun st wr cur _ h => extractFrom_leading h hspan hlen hf k⟩
    | @trailing span tail f hspan htail hlead hlen hf =>
      refine ⟨some f, (span ++ 0x00#8 :: tail).length, fun st wr cur hcur h => ?_⟩
      rw [extractFrom_oneDelim h hspan htail hlead, trailingFrame_some (storeSpan_split_delim h).2.2 hlen hf]
      exact congrArg _ (hend st wr cur hcur h)
    | @failedTail span tail hspan htail hlead hfail =>
      refine ⟨none, span.length, fun st wr cur _ h => ?_⟩
      rw [extractFrom_oneDelim h hspan htail hlead, trailingFrame_none (storeSpan_split_delim h).2.2 hfail]
    | @candidate span cand rest f hspan hcand hlead hf =>
      refine ⟨some f, span.length + 1 + cand.length + 1, fun st wr cur _ h => ?_⟩
      rw [extractFrom_candidate h hspan hcand hlead hf, Nat.add_assoc cur, Nat.add_assoc cur, Nat.add_assoc cur]
    | @failedCandidate span cand rest hspan hcand hlead hfail =>
      obtain ⟨frame, n, hnext⟩ := ih (cand ++ 0x00#8 :: rest)
      refine ⟨frame, span.length + 1 + n, fun st wr cur hcur h => ?_⟩
      have hle : cur + span.length + 1 ≤ wr := by
        have := hend st wr cur hcur h
        rw [List.length_append, List.length_cons] at this
        omega
      rw [extractFrom_failedCandidate h hspan hcand hlead hfail, hnext st wr _ hle (storeSpan_split_delim h).2.2,
        ← Nat.add_assoc, ← Nat.add_assoc]

/-- Extract() is a function of U and CRC_BE, and of nothing else (10_state.md R38). -/
theorem State.extract_of_region (be : Bool) (u : List Byte) : ∃ frame n, ∀ s : State,
    s.ctrl.crcBe = be → s.unconsumed = u → s.extract = { frame := frame, cursor := s.fbCur + n } := by
  rcases Nat.lt_or_ge u.length 10 with hshort | hlong
  · exact ⟨none, 0, fun s _ hu => State.extract_short (hu ▸ hshort)⟩
  · obtain ⟨frame, n, hfrom⟩ := extractFrom_of_region be (u.length + 1) u
    refine ⟨frame, n, fun s hbe hu => ?_⟩
    have hlen : s.fbWr - s.fbCur = u.length := by rw [← hu, State.unconsumed_length]
    rw [State.extract_long (hu ▸ hlong), hu, hbe]
    exact hfrom s.fbStore s.fbWr s.fbCur (by omega) hu

/-- What a scan that returns none leaves is left again by the next scan (R200): nothing, or a delimiter with an unfinished
candidate after it. -/
theorem extractFrom_none_again {fuel : Nat} (hcur : cur ≤ wr) (hfuel : wr - cur < fuel)
    (hnone : (extractFrom be st wr fuel cur).frame = none) (k : Nat) :
    extractFrom be st wr (k + 1) (extractFrom be st wr fuel cur).cursor =
      { frame := none, cursor := (extractFrom be st wr fuel cur).cursor } := by
  induction fuel generalizing cur with
  | zero => omega
  | succ fuel ih =>
    have hwr := storeSpan_length st cur wr
    generalize hu : storeSpan st cur wr = u at hwr
    cases regionCase be u with
    | noDelim h0 =>
      have hpass : extractFrom be st wr (fuel + 1) cur = { frame := none, cursor := wr } :=
        extractFrom_noDelim (hu ▸ h0) fuel
      rw [hpass]
      exact extractFrom_noDelim (by simp) k
    | leading hspan hlen hf =>
      rw [extractFrom_leading hu hspan hlen hf] at hnone
      cases hnone
    | trailing hspan htail hlead hlen hf =>
      rw [extractFrom_oneDelim hu hspan htail hlead, trailingFrame_some (storeSpan_split_delim hu).2.2 hlen hf] at hnone
      cases hnone
    | failedTail hspan htail hlead hfail =>
      obtain ⟨-, hrest, hafter⟩ := storeSpan_split_delim hu
      rw [extractFrom_oneDelim hu hspan htail hlead, trailingFrame_none hafter hfail]
      exact (extractFrom_oneDelim (span := []) hrest (by simp) htail (.inl (by simp)) k).trans
        (trailingFrame_none hafter hfail)
    | candidate hspan hcand hlead hf =>
      rw [extractFrom_candidate hu hspan hcand hlead hf] at hnone
      cases hnone
    | failedCandidate hspan hcand hlead hfail =>
      rw [extractFrom_failedCandidate hu hspan hcand hlead hfail] at hnone ⊢
      rw [List.length_append, List.length_cons] at hwr
      exact ih (by omega) (by omega) hnone

end Region

/-! ### The statements about FB_EXTRACT -/

/-- Settles O51: Extract() takes the leading span (`extractFrom_leading`), and what is left stands after its delimiter. -/
theorem extractTakesTheLeadingSpan : Obligations.ExtractTakesTheLeadingSpan := by
  intro s span rest f hinv hu hspan hlen hf
  obtain ⟨t, hexec, hr⟩ := exec_fbExtract_reports hinv
  have hlong : 10 ≤ s.unconsumed.length := by
    rw [hu, List.length_append]
    omega
  rw [State.extract_long hlong, extractFrom_leading hu hspan hlen hf] at hr
  obtain ⟨hfin, hout⟩ := hr.frame f rfl
  exact ⟨t, hexec, hfin, hout, hr.unconsumed.trans (storeSpan_split_delim hu).2.2, hr.fbCur⟩

theorem State.extractResult_none (s : State) (c : Nat) : s.extractResult { frame := none, cursor := c } =
    (({ s with fbCur := c }.clearOutLen).setRes (BitVec.ofNat 32 (c - s.fbCur)) (BitVec.ofNat 32 (s.fbWr - c))
      0#32).finish .none := rfl

/-- FB_EXTRACT returns NONE exactly when Extract() gives no frame (R192). -/
theorem extractResult_result_none {s : State} {r : Extracted} (h : (s.extractResult r).status.result = .none) :
    r.frame = none := by
  obtain ⟨frame, c⟩ := r
  cases frame with
  | none => rfl
  | some f => cases h

/-- The cursor that Extract() leaves with no frame is one it leaves again (R200). -/
theorem State.extract_none_again {s : State} (hnone : s.extract.frame = none) :
    (s.extractResult s.extract).extract = { frame := none, cursor := s.extract.cursor } := by
  have hres : s.extractResult s.extract = s.extractResult { frame := none, cursor := s.extract.cursor } :=
    congrArg _ (congrArg (Extracted.mk · s.extract.cursor) hnone)
  rw [hres, State.extractResult_none]
  rcases Nat.lt_or_ge s.unconsumed.length 10 with hshort | hlong
  · rw [State.extract_short hshort] at hnone ⊢
    exact State.extract_short hshort
  · rw [State.extract_long hlong] at hnone ⊢
    rw [State.unconsumed_length] at hlong
    generalize ht : State.finish _ _ = t
    rcases Nat.lt_or_ge t.unconsumed.length 10 with hshort | hlong'
    · rw [State.extract_short hshort, ← ht]
      rfl
    · rw [State.extract_long hlong', ← ht]
      exact extractFrom_none_again (by omega) (by rw [State.unconsumed_length]; omega) hnone _

/-- Settles O56: the second FB_EXTRACT finds no frame and leaves the cursor (`State.extract_none_again`). -/
theorem drainingIsIdempotent : Obligations.DrainingIsIdempotent := by
  intro s t h hres
  cases (exec_fbExtract s).symm.trans h
  have hcur : (s.extractResult s.extract).fbCur = s.extract.cursor := by
    rw [State.extractResult]
    split <;> rfl
  have hagain := State.extract_none_again (extractResult_result_none hres)
  rw [← hcur] at hagain
  generalize s.extractResult s.extract = t at hagain
  refine ⟨_, exec_fbExtract t, ?_⟩
  rw [hagain, State.extractResult_none]
  exact ⟨rfl, by simp, ⟨⟨rfl, fun _ => rfl⟩, rfl⟩⟩

end Sys2Proof.Machine

/-! SUPPORT. What a command can write, said once for all thirteen: its effect, which depends on its operands and on the bytes of
the unconsumed region only (00_scope.md R12), and the proofs of the statements that follow from it: what a command keeps and
what it does not read, the invariant, and the framer as its region. -/

namespace Sys2Proof.Machine

/-! ### The effect of a command -/

/-- What a command writes: STATUS alone, the results as well, bytes put out as well, or what FB_ADD, FB_EXTRACT and FB_CLEAR do
to the framer, FB_EXTRACT with its frame and the number of bytes it consumes. -/
inductive Effect where
  | status (c : ResultCode)
  | results (r0 r1 r2 : Word)
  | output (b : List Byte) (r0 r1 r2 : Word)
  | append (m : List Byte)
  | extraction (frame : Option (List Byte)) (consumed : Nat)
  | clear

/-- The state a command leaves in `s`, by its effect. -/
def Effect.apply (s : State) : Effect → State
  | .status c => s.finish c
  | .results r0 r1 r2 => (s.setRes r0 r1 r2).finish .ok
  | .output b r0 r1 r2 => ((s.setOut b).setRes r0 r1 r2).finish .ok
  | .append m =>
    ((s.appendToStore m).setRes (BitVec.ofNat 32 m.length) (BitVec.ofNat 32 ((s.fbWr - s.fbCur) + m.length)) 0#32).finish .ok
  | .extraction frame consumed => s.extractResult { frame := frame, cursor := s.fbCur + consumed }
  | .clear => ({ s with fbWr := 0, fbCur := 0 }.setRes (s.readReg .fbLen) 0#32 0#32).finish .ok

/-- The bounds an effect of command `i` in `s` meets, and whose command it is when it is on the framer. -/
def Effect.Allowed (i : Instr) (s : State) : Effect → Prop
  | .status _ => True
  | .results _ _ _ => True
  | .output b _ _ _ => s.Inv → b.length ≤ s.params.outCap
  | .append m => i = .fbAdd ∧ (s.fbWr - s.fbCur) + m.length ≤ s.params.fbCap
  | .extraction frame consumed => i = .fbExtract ∧ s.extract = { frame := frame, cursor := s.fbCur + consumed }
  | .clear => i = .fbClear

/-- `s` and `s'` agree in everything that command `i` reads: the parameters, CTRL, IN_BUF and IN_LEN, the argument bits it
lists, and the unconsumed region. -/
structure SameInputs (i : Instr) (s s' : State) : Prop where
  params : s'.params = s.params
  ctrl : s'.ctrl = s.ctrl
  inLen : s'.inLen = s.inLen
  inBuf : s'.inBuf = s.inBuf
  arguments : SameArgumentBits i s s'.arg0 s'.arg1 s'.arg2
  region : s'.unconsumed = s.unconsumed

/-- `t` and `t'` come of `s` and `s'` by one and the same effect of command `i`. -/
def SameEffect (i : Instr) (s s' t t' : State) : Prop := ∃ e : Effect, t = e.apply s ∧ t' = e.apply s' ∧ e.Allowed i s

section Bounds

variable {s : State}

/-- OUT_BUF has room for the longest stuffing of an input and a delimiter (00_scope.md R8, R13). -/
theorem State.Inv.stuff_inBytes_fits (hinv : s.Inv) (h : s.inLen.toNat ≤ s.params.inCap) :
    (stuff s.inBytes).length + 1 ≤ s.params.outCap := by
  have hstuff := stuff_length_le s.inBytes
  obtain ⟨-, -, -, -, -, -, -, -, -, hroom⟩ := Params.wf_bounds hinv.paramsLegal
  rw [State.inBytes_length] at hstuff
  omega

/-- OUT_BUF has room for an input. -/
theorem State.Inv.inBytes_fits (hinv : s.Inv) (h : s.inLen.toNat ≤ s.params.inCap) :
    s.inBytes.length ≤ s.params.outCap := by
  obtain ⟨-, -, -, -, hin, -, -, -, hfb, -⟩ := Params.wf_bounds hinv.paramsLegal
  rw [State.inBytes_length]
  omega

/-- OUT_BUF has room for the framer store, and so for any part of it. -/
theorem State.Inv.held_fits (hinv : s.Inv) : s.fbWr ≤ s.params.outCap := by
  obtain ⟨-, -, -, -, -, -, -, -, hfb, -⟩ := Params.wf_bounds hinv.paramsLegal
  exact Nat.le_trans hinv.heldFits hfb

/-- The two outcomes of BuildFrame: the code of a failed check, or the frame of a payload that is not too long
(42_packet.md R156, R157). -/
theorem State.buildFrame_cases (s : State) (p : List Byte) :
    (∃ e, e ∈ [ResultCode.errIllegal, .errTimestamp, .errDevice, .errLength] ∧ s.buildFrame p = .error e) ∨
    (p.length ≤ 255 ∧ s.buildFrame p = .ok ⟨wireFrame s p, crc16 (wireHeader s p ++ p)⟩) := by
  rw [State.buildFrame_eq]
  split
  · exact .inl ⟨_, by decide, rfl⟩
  · split
    · exact .inl ⟨_, by decide, rfl⟩
    · split
      · exact .inl ⟨_, by decide, rfl⟩
      · split
        · exact .inl ⟨_, by decide, rfl⟩
        · next hlen => exact .inr ⟨Nat.le_of_not_lt hlen, rfl⟩

/-- OUT_BUF has room for a frame, and for its transmission, of at most MAX_UNIT bytes. -/
theorem State.Inv.transmission_fits (hinv : s.Inv) (lead : Bool) {f : List Byte} (h : f.length ≤ 265) :
    f.length ≤ s.params.outCap ∧ (transmissionBytes lead f).length ≤ s.params.outCap := by
  have hstuff := stuff_length_le f
  obtain ⟨-, -, -, -, -, hmin, -, -, hfb, -⟩ := Params.wf_bounds hinv.paramsLegal
  rw [transmissionBytes_length]
  split <;> omega

end Bounds

section Effects

variable {i : Instr} {s s' t t' : State}

theorem SameInputs.refl (i : Instr) (s : State) : SameInputs i s s :=
  ⟨rfl, rfl, rfl, rfl, ⟨fun _ => rfl, fun _ => ⟨rfl, rfl, rfl, rfl⟩⟩, rfl⟩

theorem SameInputs.inBytes (h : SameInputs i s s') : s'.inBytes = s.inBytes := by
  rw [State.inBytes, h.inBuf, h.inLen, State.inBytes]

theorem SameInputs.fbLen (h : SameInputs i s s') : s'.fbWr - s'.fbCur = s.fbWr - s.fbCur := by
  rw [← State.unconsumed_length, h.region, State.unconsumed_length]

/-- The input check has the same outcome in both states (60_exceptions.md R224). -/
theorem SameEffect.withInput {k k' : List Byte → State} (h : SameInputs i s s')
    (hk : s.inLen.toNat ≤ s.params.inCap → SameEffect i s s' (k s.inBytes) (k' s.inBytes)) :
    SameEffect i s s' (s.withInput k) (s'.withInput k') := by
  rcases Nat.lt_or_ge s.params.inCap s.inLen.toNat with hlong | hle
  · rw [State.withInput_tooLong hlong, State.withInput_tooLong (by rw [h.params, h.inLen]; exact hlong)]
    exact ⟨.status .errIllegal, rfl, rfl, trivial⟩
  · rw [State.withInput_legal hle, State.withInput_legal (by rw [h.params, h.inLen]; exact hle), h.inBytes]
    exact hk hle

theorem SameEffect.output {b : List Byte} (r0 r1 r2 : Word) (fits : s.Inv → b.length ≤ s.params.outCap) :
    SameEffect i s s' (((s.setOut b).setRes r0 r1 r2).finish .ok) (((s'.setOut b).setRes r0 r1 r2).finish .ok) :=
  ⟨.output b r0 r1 r2, rfl, rfl, fits⟩

theorem SameEffect.unstuffResult {d : List Byte} (hd : s.Inv → d.length ≤ s.params.outCap) :
    SameEffect i s s' (s.unstuffResult (unstuff d)) (s'.unstuffResult (unstuff d)) := by
  cases hr : unstuff d with
  | none => exact ⟨.status .errUnstuff, rfl, rfl, trivial⟩
  | some b =>
    refine .output _ _ _ fun hinv => ?_
    have := unstuff_length_le hr
    have := hd hinv
    omega

/-- PKT_BUILD and PKT_ENCODE read of the arguments what BuildFrame checks and packs (42_packet.md R156, R157). -/
theorem SameInputs.buildFrame (h : SameInputs i s s') (hi : i = .pktBuild ∨ i = .pktEncode) (p : List Byte) :
    s'.buildFrame p = s.buildFrame p := by
  obtain ⟨htype, hdev, harg1, harg2⟩ := h.arguments.2 hi
  rw [State.buildFrame, State.typeCode, State.deviceId, State.ts, h.ctrl, htype, hdev, harg1, harg2]
  rfl

theorem SameEffect.packetResult {toOut : List Byte → List Byte} {p : List Byte}
    (fits : s.Inv → ∀ f : List Byte, f.length ≤ 265 → (toOut f).length ≤ s.params.outCap) :
    SameEffect i s s' (s.packetResult (s.buildFrame p) toOut) (s'.packetResult (s.buildFrame p) toOut) := by
  obtain ⟨e, -, hr⟩ | ⟨hlen, hr⟩ := s.buildFrame_cases p
  · exact hr ▸ ⟨.status e, rfl, rfl, trivial⟩
  · rw [hr]
    refine .output _ _ _ fun hinv => fits hinv _ ?_
    rw [wireFrame_length]
    omega

/-- A command has the same effect in two states that agree in what it reads. -/
theorem exec_sameEffect (h : SameInputs i s s') :
    ∃ t t', exec i s = .next t ∧ exec i s' = .next t' ∧ SameEffect i s s' t t' := by
  cases i with
  | nop => exact ⟨_, _, exec_nop s, exec_nop s', .status .ok, rfl, rfl, trivial⟩
  | crcCompute =>
    exact ⟨_, _, exec_crcCompute s, exec_crcCompute s', .withInput h fun _ => ⟨.results _ _ _, rfl, rfl, trivial⟩⟩
  | crcVerify =>
    have hexp : s'.expected = s.expected := h.arguments.1 rfl
    refine ⟨_, _, exec_crcVerify s, exec_crcVerify s', .withInput h fun _ => ?_⟩
    rw [hexp]
    exact ⟨.results _ _ _, rfl, rfl, trivial⟩
  | cobsStuff =>
    exact ⟨_, _, exec_cobsStuff s, exec_cobsStuff s', .withInput h fun hle => .output _ _ _ fun hinv =>
      Nat.le_of_succ_le (hinv.stuff_inBytes_fits hle)⟩
  | cobsStuffDelim =>
    exact ⟨_, _, exec_cobsStuffDelim s, exec_cobsStuffDelim s', .withInput h fun hle => .output _ _ _ fun hinv => by
      simpa using hinv.stuff_inBytes_fits hle⟩
  | cobsUnstuff =>
    exact ⟨_, _, exec_cobsUnstuff s, exec_cobsUnstuff s', .withInput h fun hle => .unstuffResult fun hinv =>
      hinv.inBytes_fits hle⟩
  | pktEncode =>
    refine ⟨_, _, exec_pktEncode s, exec_pktEncode s', .withInput h fun _ => ?_⟩
    rw [h.buildFrame (.inr rfl), h.ctrl]
    exact .packetResult fun hinv f hf => (hinv.transmission_fits _ hf).2
  | pktBuild =>
    refine ⟨_, _, exec_pktBuild s, exec_pktBuild s', .withInput h fun _ => ?_⟩
    rw [h.buildFrame (.inl rfl)]
    exact .packetResult fun hinv f hf => (hinv.transmission_fits false hf).1
  | pktDecode =>
    exact ⟨_, _, exec_pktDecode s, exec_pktDecode s', .withInput h fun hle => .output _ _ _ fun hinv =>
      Nat.le_trans (decodeFrame_payload_length_le _) (hinv.inBytes_fits hle)⟩
  | fbAdd =>
    refine ⟨_, _, exec_fbAdd s, exec_fbAdd s', .withInput h fun _ => ?_⟩
    simp only [h.params]
    by_cases hfull : s.params.fbCap < (s.fbWr - s.fbCur) + s.inBytes.length
    · rw [if_pos hfull, if_pos (h.fbLen ▸ hfull)]
      exact ⟨.status .errOverflow, rfl, rfl, trivial⟩
    · rw [if_neg hfull, if_neg (h.fbLen ▸ hfull)]
      exact ⟨.append _, rfl, rfl, rfl, Nat.le_of_not_lt hfull⟩
  | fbExtract =>
    obtain ⟨frame, n, hextract⟩ := State.extract_of_region s.ctrl.crcBe s.unconsumed
    have hs := hextract s rfl rfl
    refine ⟨_, _, exec_fbExtract s, exec_fbExtract s', .extraction frame n, congrArg _ hs, congrArg _ ?_, rfl, hs⟩
    exact hextract s' (congrArg Ctrl.crcBe h.ctrl) h.region
  | fbClear => exact ⟨_, _, exec_fbClear s, exec_fbClear s', .clear, rfl, rfl, rfl⟩
  | fbPeek =>
    have hlen : s'.readReg .fbLen = s.readReg .fbLen := congrArg (BitVec.ofNat 32) h.fbLen
    refine ⟨_, _, exec_fbPeek s, exec_fbPeek s', ?_⟩
    rw [h.region, hlen]
    refine .output _ _ _ fun hinv => ?_
    have := hinv.held_fits
    rw [State.unconsumed_length]
    omega

/-- Every command has an effect, and the same one in every state that agrees in what the command reads. -/
theorem exec_effect (h : exec i s = .next t) :
    ∃ e : Effect, t = e.apply s ∧ e.Allowed i s := by
  obtain ⟨u, -, hu, -, e, he, -, hallowed⟩ := exec_sameEffect (SameInputs.refl i s)
  cases h.symm.trans hu
  exact ⟨e, he, hallowed⟩

theorem exec_effect_of_sameInputs (h : SameInputs i s s') (hexec : exec i s = .next t) :
    ∃ e : Effect, t = e.apply s ∧ exec i s' = .next (e.apply s') := by
  obtain ⟨u, u', hu, hu', e, he, rfl, -⟩ := exec_sameEffect h
  cases hexec.symm.trans hu
  exact ⟨e, he, hu'⟩

/-! ### What a command keeps (20_memory.md R71, 10_state.md R37) -/

theorem Effect.operandsKept (e : Effect) (s : State) : OperandsKept s (e.apply s) := by
  cases e with
  | extraction frame n => cases frame <;> exact operandsKept_of_writes ..
  | _ => exact operandsKept_of_writes ..

theorem exec_operandsKept (h : exec i s = .next t) : OperandsKept s t := by
  obtain ⟨e, rfl, -⟩ := exec_effect h
  exact e.operandsKept s

end Effects

/-- Settles O27: no effect is on the operands (`Effect.operandsKept`). -/
theorem commandsKeepTheirOperands : Obligations.CommandsKeepTheirOperands := fun _ _ _ => exec_operandsKept

/-- Settles O28: an effect on the framer is of FB_ADD, FB_EXTRACT or FB_CLEAR. -/
theorem onlyFramerCommandsWriteTheFramer : Obligations.OnlyFramerCommandsWriteTheFramer := by
  intro i s t hadd hextract hclear h
  obtain ⟨e, rfl, hallowed⟩ := exec_effect h
  cases e with
  | append _ => exact absurd hallowed.1 hadd
  | extraction _ _ => exact absurd hallowed.1 hextract
  | clear => exact absurd hallowed hclear
  | _ => exact ⟨⟨rfl, fun _ => rfl⟩, rfl⟩

/-! ### What a command does not read (10_state.md R29, R30, R40) -/

/-- Settles O24: the other argument values are no input of the command, and no effect is on ARG0 to ARG2. -/
theorem commandsIgnoreUnusedArgumentBits : Obligations.CommandsIgnoreUnusedArgumentBits := by
  intro i s t a b c hbits h
  obtain ⟨e, rfl, hexec⟩ := exec_effect_of_sameInputs
    (s := s) (s' := { s with arg0 := a, arg1 := b, arg2 := c }) ⟨rfl, rfl, rfl, rfl, hbits, rfl⟩ h
  rw [hexec]
  cases e with
  | extraction frame n => cases frame <;> rfl
  | _ => rfl

/-- Settles O26: STATUS is no input of a command, and an effect puts its code there and sets ERR or keeps it. -/
theorem commandsDoNotReadTheFlags : Obligations.CommandsDoNotReadTheFlags := by
  intro i s t st h
  obtain ⟨e, rfl, hexec⟩ := exec_effect_of_sameInputs (s := s) (s' := { s with status := st })
    ⟨rfl, rfl, rfl, rfl, (SameInputs.refl i s).arguments, rfl⟩ h
  rw [hexec]
  cases e with
  | extraction frame n => cases frame <;> rfl
  | _ => rfl

/-! ### The parameters (10_state.md R41, 70_reset_and_hazards.md R253) -/

theorem step_params {s t : State} (h : step s = .next t) : t.params = s.params := by
  obtain ⟨-, rfl⟩ | ⟨_, _, _, _, -, -, rfl⟩ | ⟨_, _, v, rest, l, -, -, -, rfl⟩ | ⟨_, _, i, -, -, hexec⟩ |
    ⟨_, _, _, -, -, rfl⟩ | ⟨_, _, _, _, -, rfl⟩ := step_next_cases h
  case inr.inr.inl => exact State.writeLocation_params ..
  case inr.inr.inr.inl => exact (exec_operandsKept hexec).params
  all_goals rfl

/-- Settles O5: a step by `step_params`; after a fault the host goes on in a state that differs at its port only. -/
theorem parametersNeverChange : Obligations.ParametersNeverChange := by
  rintro s t (h | h)
  · exact step_params h
  · obtain ⟨u, hu⟩ | ⟨addr, n, f, rest, haccess, -, hf⟩ := step_cases s
    · cases h.symm.trans (carryOn_of_next hu)
      exact step_params hu
    · cases h.symm.trans (carryOn_of_fault haccess hf)
      rfl

/-! ### The invariant after reset -/

theorem State.afterReset_inv {s : State} (hp : s.params.wf = true) (inBytes outBytes storeBytes : List Byte) :
    (s.afterReset inBytes outBytes storeBytes).Inv := by
  have hwf (bs : List Byte) : Memory.wf (Memory.writeBytes [] 0 bs) := Memory.wf_writeBytes Memory.wf_nil 0 bs
  have hfit (bs : List Byte) (cap : Nat) : Memory.within (Memory.writeBytes [] 0 (bs.take cap)) cap :=
    Memory.within_writeBytes (m := []) nofun (by simp)
  exact ⟨hp, hwf _, hfit _ _, hwf _, hfit _ _, hwf _, hfit _ _, Nat.zero_le _, Nat.le_refl 0, Nat.zero_le _⟩

/-- Settles O3: State.reset is the reset state of the default parameters with no bytes given. -/
theorem invariantHoldsAtReset : Obligations.InvariantHoldsAtReset :=
  ⟨State.afterReset_inv (s := State.reset) (by decide) [] [] [], fun _ inBytes outBytes storeBytes hp =>
    State.afterReset_inv hp inBytes outBytes storeBytes⟩

/-- A buffer filled with the values of a function reads as that function up to its capacity. -/
theorem Memory.read_writeBytes_map_range (f : Nat → Byte) {cap k : Nat} (hk : k < cap) :
    Memory.read (Memory.writeBytes [] 0 (((List.range cap).map f).take cap)) k = f k := by
  rw [Memory.read_writeBytes_take (by simpa using hk) hk]
  simp [List.getD_eq_getElem?_getD, hk]

/-- Settles O2: the bytes chosen, listed up to the capacity, are the argument of the reset. -/
theorem resetBytesMayBeAnything : Obligations.ResetBytesMayBeAnything := fun p f g _ =>
  ⟨(List.range p.inCap).map f, (List.range p.outCap).map g, fun _ =>
    ⟨fun _ => Memory.read_writeBytes_map_range f, fun _ => Memory.read_writeBytes_map_range g⟩⟩

/-! ### Every step keeps the invariant -/

section Invariant

variable {i : Instr} {s t : State}

/-- The invariant says nothing of CMD, of the host's list and of the port. -/
theorem State.Inv.access (h : s.Inv) (cmd : Word) (host : List HostEvent) (response : Response) :
    ({ s with cmd := cmd, host := host, response := response } : State).Inv :=
  ⟨h.1, h.2, h.3, h.4, h.5, h.6, h.7, h.8, h.9, h.10⟩

theorem State.Inv.setCursor (h : s.Inv) {c : Nat} (hc : c ≤ s.fbWr) : ({ s with fbCur := c } : State).Inv :=
  ⟨h.1, h.2, h.3, h.4, h.5, h.6, h.7, h.8, hc, h.10⟩

theorem State.Inv.clearFramer (h : s.Inv) : ({ s with fbWr := 0, fbCur := 0 } : State).Inv :=
  ⟨h.1, h.2, h.3, h.4, h.5, h.6, h.7, h.8, Nat.le_refl 0, Nat.zero_le _⟩

/-- Appending keeps the invariant when the store has room (43_framer.md R185). -/
theorem State.Inv.appendToStore (h : s.Inv) {m : List Byte}
    (room : (s.fbWr - s.fbCur) + m.length ≤ s.params.fbCap) : (s.appendToStore m).Inv := by
  have hwf : Memory.wf (s.appendToStore m).fbStore :=
    State.appendToStore_store s m ▸ Memory.wf_writeBytes h.storeCanonical 0 _
  have hfit : Memory.within (s.appendToStore m).fbStore s.params.fbCap :=
    State.appendToStore_store s m ▸ Memory.within_writeBytes h.storeWithin (by simpa using room)
  exact ⟨h.1, h.2, h.3, h.4, h.5, hwf, hfit, h.8, Nat.zero_le _, room⟩

/-- The cursor stays within the bytes held, and a frame is no longer than they are (43_framer.md R196). -/
theorem State.Inv.extractResult (h : s.Inv) {frame : Option (List Byte)} {c : Nat}
    (hr : s.extract = { frame := frame, cursor := c }) : (s.extractResult { frame := frame, cursor := c }).Inv := by
  obtain ⟨-, hle, hlt⟩ := hr ▸ State.extract_within h.cursorLe
  have hcur : ({ s with fbCur := c } : State).Inv := h.setCursor hle
  cases frame with
  | none => exact (hcur.clearOutLen.setRes _ _ _).finish .none
  | some f =>
    have hlen : s.fbCur + f.length < c := hlt f rfl
    have hend : c ≤ s.fbWr := hle
    have := h.held_fits
    exact ((hcur.setOut (b := f) (by show f.length ≤ s.params.outCap; omega)).setRes _ _ _).finish .ok

theorem Effect.Allowed.inv {e : Effect} (h : e.Allowed i s) (hinv : s.Inv) : (e.apply s).Inv := by
  cases e with
  | status c => exact hinv.finish c
  | results r0 r1 r2 => exact (hinv.setRes r0 r1 r2).finish .ok
  | output b r0 r1 r2 => exact ((hinv.setOut (h hinv)).setRes r0 r1 r2).finish .ok
  | append m => exact ((hinv.appendToStore h.2).setRes _ _ _).finish .ok
  | extraction frame n => exact hinv.extractResult h.2
  | clear => exact (hinv.clearFramer.setRes _ _ _).finish .ok

theorem exec_keeps_inv (hinv : s.Inv) (h : exec i s = .next t) : t.Inv := by
  obtain ⟨e, rfl, hallowed⟩ := exec_effect h
  exact hallowed.inv hinv

/-- No register that a host writes is in the invariant. -/
theorem State.Inv.writeReg (h : s.Inv) (r : Reg) (v : Word) : (s.writeReg r v).Inv := by
  cases r <;> exact ⟨h.1, h.2, h.3, h.4, h.5, h.6, h.7, h.8, h.9, h.10⟩

/-- A legal access at IN_BUF ends within it (20_memory.md R62). -/
theorem checkAddress_inByte_fits {p : Params} {addr n i : Nat} (hin : p.inCap ≤ 0x1000)
    (h : checkAddress p addr n = .ok (.inByte i)) : i + n ≤ p.inCap := by
  unfold checkAddress at h
  split at h
  · obtain ⟨hreg, rfl, halign⟩ | ⟨j, hj, -, -, hend⟩ | ⟨j, hj, -⟩ := checkAccess_ok_cases hin h
    · rw [checkAccess, locate_register p hreg] at h
      simp [halign] at h
    · cases hj
      exact hend
    · cases hj
  · cases h

theorem State.Inv.writeLocation (h : s.Inv) {addr n : Nat} {l : Location}
    (hl : checkAddress s.params addr n = .ok l) (v : Word) : (s.writeLocation l n v).Inv := by
  cases l with
  | register r => exact h.writeReg r v
  | inByte i =>
    obtain ⟨-, -, -, hin, -⟩ := Params.wf_bounds h.paramsLegal
    have hend : i + (bytesOfWord n v).length ≤ s.params.inCap := by
      rw [bytesOfWord_length]
      exact checkAddress_inByte_fits hin hl
    exact ⟨h.1, Memory.wf_writeBytes h.2 _ _, Memory.within_writeBytes h.3 hend, h.4, h.5, h.6, h.7, h.8, h.9, h.10⟩
  | outByte i => exact h
  | hole => exact h

end Invariant

/-- Settles O4: of the cases of a step, a wait and a read write no buffer, a write stores within IN_BUF
(`State.Inv.writeLocation`), a command keeps the invariant by its effect (`exec_keeps_inv`), and reset by
`State.afterReset_inv`. -/
theorem stepKeepsTheInvariant : Obligations.StepKeepsTheInvariant := by
  intro s t hinv h
  obtain ⟨-, rfl⟩ | ⟨_, _, rest, _, -, -, rfl⟩ | ⟨_, _, v, rest, _, -, hl, -, rfl⟩ | ⟨v, rest, _, -, -, hexec⟩ |
    ⟨v, rest, _, -, -, rfl⟩ | ⟨a, b, c, rest, -, rfl⟩ := step_next_cases h
  · exact hinv
  · exact hinv.access _ rest _
  · exact (hinv.access s.cmd rest .written).writeLocation hl v
  · exact exec_keeps_inv (hinv.access v rest .written) hexec
  · exact (hinv.access v rest .written).raise .errIllegal
  · exact State.afterReset_inv (s := { s with host := rest }) hinv.paramsLegal a b c

/-! ### The framer is its unconsumed region (10_state.md R38) -/

section SameRegion

variable {s s' t : State}

/-- Two states that differ only in the store are one state with another store, and the same region in it. -/
theorem sameButStore_iff : SameButStore s s' ↔
    s' = { s with fbStore := s'.fbStore, fbWr := s'.fbWr, fbCur := s'.fbCur } ∧ s'.unconsumed = s.unconsumed := by
  refine ⟨fun h => ⟨?_, h.region⟩, fun ⟨h, hu⟩ => ?_⟩
  · obtain ⟨hparams, hctrl, hcmd, hstatus, hinLen, houtLen, harg0, harg1, harg2, hres0, hres1, hres2, hinBuf, houtBuf, -,
      hhost, hresponse⟩ := h
    rw [← hparams, ← hctrl, ← hcmd, ← hstatus, ← hinLen, ← houtLen, ← harg0, ← harg1, ← harg2, ← hres0, ← hres1, ← hres2,
      ← hinBuf, ← houtBuf, ← hhost, ← hresponse]
  · rw [h] at hu ⊢
    exact ⟨rfl, rfl, rfl, rfl, rfl, rfl, rfl, rfl, rfl, rfl, rfl, rfl, rfl, rfl, hu, rfl, rfl⟩

theorem SameButStore.refl (s : State) : SameButStore s s := sameButStore_iff.mpr ⟨rfl, rfl⟩

theorem SameButStore.of_store {store : Memory} {wr cur : Nat}
    (hu : ({ s with fbStore := store, fbWr := wr, fbCur := cur } : State).unconsumed = s.unconsumed) :
    SameButStore s { s with fbStore := store, fbWr := wr, fbCur := cur } := sameButStore_iff.mpr ⟨rfl, hu⟩

theorem SameButStore.exists_store (h : SameButStore s s') : ∃ store wr cur,
    s' = { s with fbStore := store, fbWr := wr, fbCur := cur } := ⟨_, _, _, (sameButStore_iff.mp h).1⟩

theorem SameButStore.fbLen (h : SameButStore s s') : s'.fbWr - s'.fbCur = s.fbWr - s.fbCur := by
  rw [← State.unconsumed_length, h.region, State.unconsumed_length]

theorem SameButStore.sameInputs (h : SameButStore s s') (i : Instr) : SameInputs i s s' := by
  refine ⟨h.params, h.ctrl, h.inLen, h.inBuf, ?_, h.region⟩
  rw [h.arg0, h.arg1, h.arg2]
  exact (SameInputs.refl i s).arguments

/-- Neither the host's list and the port nor CMD are part of the region. -/
theorem SameButStore.port (h : SameButStore s s') (host : List HostEvent) (response : Response) :
    SameButStore { s with host := host, response := response } { s' with host := host, response := response } := by
  obtain ⟨store, wr, cur, rfl⟩ := h.exists_store
  exact .of_store (s := { s with host := host, response := response }) h.region

theorem SameButStore.access (h : SameButStore s s') (cmd : Word) (host : List HostEvent) (response : Response) :
    SameButStore { s with cmd := cmd, host := host, response := response }
      { s' with cmd := cmd, host := host, response := response } := by
  obtain ⟨store, wr, cur, rfl⟩ := h.exists_store
  exact .of_store (s := { s with cmd := cmd, host := host, response := response }) h.region

/-- A read answers the same: FB_LEN, the only register that reads the framer, is the region's length (10_state.md R32). -/
theorem SameButStore.readLocation (h : SameButStore s s') (l : Location) (n : Nat) :
    s'.readLocation l n = s.readLocation l n := by
  have hlen := congrArg (BitVec.ofNat 32) h.fbLen
  obtain ⟨store, wr, cur, rfl⟩ := h.exists_store
  cases l with
  | register r =>
    cases r with
    | fbLen => exact hlen
    | _ => rfl
  | _ => rfl

/-- No host write is to the store. -/
theorem SameButStore.writeLocation (h : SameButStore s s') (l : Location) (n : Nat) (v : Word) :
    SameButStore (s.writeLocation l n v) (s'.writeLocation l n v) := by
  obtain ⟨store, wr, cur, rfl⟩ := h.exists_store
  cases l with
  | register r => cases r <;> exact .of_store h.region
  | _ => exact .of_store h.region

theorem Memory.slice_drop (m : Memory) (a n k : Nat) : (Memory.slice m a n).drop k = Memory.slice m (a + k) (n - k) := by
  refine List.ext_getElem (by simp) fun j h1 h2 => ?_
  rw [List.getElem_drop, Memory.slice_getElem, Memory.slice_getElem, Nat.add_assoc]

/-- Moving the cursor on takes bytes off the region. -/
theorem State.unconsumed_setCursor (s : State) (n : Nat) :
    ({ s with fbCur := s.fbCur + n } : State).unconsumed = s.unconsumed.drop n := by
  rw [State.unconsumed, State.unconsumed, Memory.slice_drop, Nat.sub_sub]

/-- One effect on two stores that hold the same region leaves the same region in both. -/
theorem SameButStore.apply (h : SameButStore s s') (hwf : Memory.wf s.fbStore) (hwf' : Memory.wf s'.fbStore) (e : Effect) :
    SameButStore (e.apply s) (e.apply s') := by
  have hlen := h.fbLen
  have hregion := h.region
  obtain ⟨store, wr, cur, rfl⟩ := h.exists_store
  replace hlen : wr - cur = s.fbWr - s.fbCur := hlen
  cases e with
  | append m =>
    refine sameButStore_iff.mpr ⟨?_, ?_⟩
    · show State.finish (State.setRes _ _ (BitVec.ofNat 32 (wr - cur + m.length)) _) _ = _
      rw [hlen]
      rfl
    · exact (State.appendToStore_unconsumed hwf' m).trans
        ((congrArg (· ++ m) hregion).trans (State.appendToStore_unconsumed hwf m).symm)
  | extraction frame n =>
    have hconsumed : cur + n - cur = s.fbCur + n - s.fbCur := by omega
    have hleft : wr - (cur + n) = s.fbWr - (s.fbCur + n) := by omega
    have hdrop : ({ s with fbStore := store, fbWr := wr, fbCur := cur + n } : State).unconsumed =
        ({ s with fbCur := s.fbCur + n } : State).unconsumed :=
      (State.unconsumed_setCursor { s with fbStore := store, fbWr := wr, fbCur := cur } n).trans
        ((congrArg (List.drop n) hregion).trans (s.unconsumed_setCursor n).symm)
    cases frame <;>
    · refine sameButStore_iff.mpr ⟨?_, hdrop⟩
      show State.finish (State.setRes _ (BitVec.ofNat 32 (cur + n - cur)) (BitVec.ofNat 32 (wr - (cur + n))) _) _ = _
      rw [hconsumed, hleft]
      rfl
  | clear =>
    refine sameButStore_iff.mpr ⟨?_, rfl⟩
    show State.finish (State.setRes _ (BitVec.ofNat 32 (wr - cur)) _ _) _ = _
    rw [hlen]
    rfl
  | _ => exact .of_store hregion

/-- A command takes two such states that meet the invariant to two such states. -/
theorem SameButStore.exec {i : Instr} (h : SameButStore s s') (hinv : s.Inv) (hinv' : s'.Inv)
    (hexec : exec i s = .next t) : ∃ t', exec i s' = .next t' ∧ SameButStore t t' := by
  obtain ⟨e, rfl, hexec'⟩ := exec_effect_of_sameInputs (h.sameInputs i) hexec
  exact ⟨_, hexec', h.apply hinv.storeCanonical hinv'.storeCanonical e⟩

theorem SameButStore.next (h : SameButStore s s') (hinv : s.Inv) (hinv' : s'.Inv) (hstep : step s = .next t) :
    ∃ t', step s' = .next t' ∧ SameButStore t t' := by
  obtain ⟨hhost, rfl⟩ | ⟨_, _, rest, l, hhost, hl, rfl⟩ | ⟨_, _, v, rest, _, hhost, hl, hne, rfl⟩ |
    ⟨v, rest, i, hhost, hd, hexec⟩ | ⟨v, rest, e, hhost, he, rfl⟩ | ⟨a, b, c, rest, hhost, rfl⟩ := step_next_cases hstep
  all_goals rw [← h.host] at hhost
  · exact ⟨s', idleStepChangesNothing s' hhost, h⟩
  · refine ⟨_, step_read hhost (h.params ▸ hl), ?_⟩
    rw [h.readLocation]
    exact h.port rest _
  · exact ⟨_, step_write hhost (h.params ▸ hl) hne, (h.port rest .written).writeLocation _ _ v⟩
  · rw [← h.params] at hhost
    rw [step_commandWrite hhost, runCommand_of_decode_ok hd]
    exact (h.access v rest .written).exec (hinv.access v rest _) (hinv'.access v rest _) hexec
  · rw [← h.params] at hhost
    rw [step_commandWrite hhost, runCommand_of_decode_error he]
    exact ⟨_, rfl, (h.access v rest .written).apply hinv.storeCanonical hinv'.storeCanonical (.status .errIllegal)⟩
  · refine ⟨_, by rw [step, stepHost, hhost]; exact perform_reset _ a b c, ?_⟩
    have hsame : ({ s' with host := rest } : State).afterReset a b c = ({ s with host := rest } : State).afterReset a b c := by
      rw [State.afterReset, h.params]
      rfl
    exact hsame ▸ .refl _

/-- A bus error depends on the access and the parameters only (20_memory.md R67). -/
theorem SameButStore.fault {f : Fault} (h : SameButStore s s') (hstep : step s = .fault f) : step s' = .fault f := by
  obtain ⟨addr, n, rest, hhost, hf⟩ := onlyHostAccessesFault.1 s f hstep
  rw [← h.host] at hhost
  exact step_fault hhost (h.params ▸ hf)

end SameRegion

/-- Settles O55: the cases of a step (`SameButStore.next`), and its faults (`SameButStore.fault`). -/
theorem framerIsObservedOnlyThroughItsRegion : Obligations.FramerIsObservedOnlyThroughItsRegion :=
  fun _ _ hinv hinv' h => ⟨fun _ => h.next hinv hinv', fun _ => h.fault⟩

end Sys2Proof.Machine

/-! SUPPORT. The result codes of each command (60_exceptions.md R225), each with a state that the command finishes from with it,
what the registers read as after a host write (10_state.md R34), and the proofs of the statements about them. -/

namespace Sys2Proof.Machine

/-! ### A command finishes with no other code -/

section Codes

variable {s : State} {codes : List ResultCode}

theorem withInput_result_mem {k : List Byte → State} (hcheck : .errIllegal ∈ codes)
    (hk : ∀ d, (k d).status.result ∈ codes) : (s.withInput k).status.result ∈ codes := by
  obtain ⟨-, h⟩ | ⟨-, h⟩ := s.withInput_cases k
  · exact h ▸ hcheck
  · exact h ▸ hk _

theorem packetResult_mem (p : List Byte) (toOut : List Byte → List Byte) :
    (s.packetResult (s.buildFrame p) toOut).status.result ∈ codesOf .pktEncode := by
  obtain ⟨e, he, hr⟩ | ⟨-, hr⟩ := s.buildFrame_cases p
  · exact hr ▸ List.mem_cons_of_mem _ he
  · exact hr ▸ List.mem_cons_self

theorem ok_mem_codesOf (i : Instr) : .ok ∈ codesOf i := by cases i <;> decide

theorem exec_result_mem {i : Instr} {t : State} (h : exec i s = .next t) : t.status.result ∈ codesOf i := by
  cases i with
  | nop | fbClear | fbPeek => cases h; exact ok_mem_codesOf _
  | crcCompute | crcVerify | cobsStuff | cobsStuffDelim | pktDecode =>
    cases h
    exact withInput_result_mem (by decide) fun _ => ok_mem_codesOf _
  | cobsUnstuff =>
    cases h
    refine withInput_result_mem (by decide) fun d => ?_
    cases unstuff d with
    | none => exact (by decide : ResultCode.errUnstuff ∈ codesOf .cobsUnstuff)
    | some b => exact ok_mem_codesOf _
  | pktEncode | pktBuild =>
    cases h
    exact withInput_result_mem (by decide) fun p => packetResult_mem p _
  | fbAdd =>
    cases h
    refine withInput_result_mem (by decide) fun m => ?_
    split
    · exact (by decide : ResultCode.errOverflow ∈ codesOf .fbAdd)
    · exact ok_mem_codesOf _
  | fbExtract =>
    cases h
    rw [State.extractResult]
    split
    · exact ok_mem_codesOf _
    · exact (by decide : ResultCode.none ∈ codesOf .fbExtract)

end Codes

/-! ### A command finishes with each code of its row -/

/-- A state from which a command finishes with a code of its row: IN_LEN too long, an operand out of range, a full store, or
what the command takes without error. -/
def codeWitness : Instr → ResultCode → State
  | _, .errIllegal => { State.reset with inLen := 2049#16 }
  | _, .errTimestamp => { State.reset with arg2 := 0x100#32 }
  | _, .errDevice => { State.reset with arg0 := 0x2000#32 }
  | _, .errLength => { State.reset with inLen := 256#16 }
  | _, .errOverflow => { State.reset with inLen := 1#16, fbWr := 4096 }
  | .cobsUnstuff, .ok => { State.reset with inLen := 1#16, inBuf := [(0, 0x01#8)] }
  | .fbExtract, .ok => { State.reset with
      fbStore := Memory.writeBytes [] 0 [0x02, 0x01, 0x01, 0x01, 0x01, 0x01, 0x01, 0x01, 0x03, 0x51, 0x18, 0x00], fbWr := 12 }
  | _, _ => State.reset

/-- The code an outcome has in STATUS. -/
def resultOf : Host.Outcome State Fault Refusal → Option ResultCode
  | .next t => some t.status.result
  | .fault _ => none
  | .refused _ => none

theorem codeWitness_inv (i : Instr) (c : ResultCode) : (codeWitness i c).Inv := by
  refine State.inv_iff.mpr ?_
  cases i <;> cases c <;> decide

theorem codeWitness_result (i : Instr) : ∀ c ∈ codesOf i, resultOf (exec i (codeWitness i c)) = some c := by
  cases i <;> decide +kernel

/-- Settles O25: no other code by `exec_result_mem`, and each code of the row from its `codeWitness`. -/
theorem commandsFinishWithTheTablesCodes : Obligations.CommandsFinishWithTheTablesCodes := by
  refine fun i c => ⟨fun hc => ?_, fun ⟨s, t, _, h, hres⟩ => hres ▸ exec_result_mem h⟩
  obtain ⟨t, ht⟩ := exec_next i (codeWitness i c)
  have hres := codeWitness_result i c hc
  rw [ht] at hres
  exact ⟨_, t, codeWitness_inv i c, ht, Option.some.inj hres⟩

/-! ### Reserved bits (10_state.md R34) -/

/-- Cutting a value to its low `k` bits is masking it. -/
theorem setWidth_setWidth_eq_mask (v : Word) (k : Nat) (hk : k ≤ 32) :
    (v.setWidth k).setWidth 32 = v &&& BitVec.ofNat 32 (2 ^ k - 1) := by
  have hle : 2 ^ k ≤ 2 ^ 32 := Nat.pow_le_pow_right (by omega) hk
  have hmask : (2 ^ k - 1) % 2 ^ 32 = 2 ^ k - 1 := Nat.mod_eq_of_lt (by have := Nat.two_pow_pos k; omega)
  have hcut : v.toNat % 2 ^ k % 2 ^ 32 = v.toNat % 2 ^ k :=
    Nat.mod_eq_of_lt (Nat.lt_of_lt_of_le (Nat.mod_lt _ (Nat.two_pow_pos k)) hle)
  refine BitVec.eq_of_toNat_eq ?_
  rw [BitVec.toNat_setWidth, BitVec.toNat_setWidth, BitVec.toNat_and, BitVec.toNat_ofNat, hmask, hcut,
    Nat.and_two_pow_sub_one_eq_mod]

/-- CTRL keeps bits 0 and 1 of a value. -/
theorem Ctrl.toWord_ofWord (v : Word) : (Ctrl.ofWord v).toWord = v &&& 0x00000003#32 := by
  have hbits : ∀ w : BitVec 2, Ctrl.toWord ⟨w.getLsbD 0, w.getLsbD 1⟩ = w.setWidth 32 := by decide
  have hlow := hbits (v.setWidth 2)
  rw [setWidth_setWidth_eq_mask v 2 (by omega), BitVec.getLsbD_setWidth, BitVec.getLsbD_setWidth] at hlow
  exact hlow

theorem setWidth_half_reserved (h : Half) : h.setWidth 32 &&& 0xFFFF0000#32 = 0#32 := by
  have hlow : h.setWidth 32 &&& 0x0000FFFF#32 = h.setWidth 32 := by
    have := setWidth_setWidth_eq_mask (h.setWidth 32) 16 (by omega)
    rw [BitVec.setWidth_setWidth_of_le h (by decide), BitVec.setWidth_eq] at this
    exact this.symm
  calc h.setWidth 32 &&& 0xFFFF0000#32
    _ = (h.setWidth 32 &&& 0x0000FFFF#32) &&& 0xFFFF0000#32 := by rw [hlow]
    _ = h.setWidth 32 &&& 0#32 := BitVec.and_assoc ..
    _ = 0#32 := BitVec.and_zero

theorem Status.toWord_reserved (st : Status) : st.toWord &&& 0xFFFFFEF0#32 = 0#32 := by
  obtain ⟨result, err⟩ := st
  cases err <;> cases result <;> decide

theorem runCommand_operandsKept {s t : State} {v : Word} (h : runCommand v s = .next t) : OperandsKept s t := by
  unfold runCommand at h
  split at h
  · exact exec_operandsKept h
  · cases h
    exact (onlyStatus_raise s .errIllegal).operands

/-- Settles O21: the values a write stores, read back; OUT_LEN and STATUS have no other bits in any state. -/
theorem reservedBitsReadZeroAndIgnoreWrites : Obligations.ReservedBitsReadZeroAndIgnoreWrites := by
  intro s r v rest h
  by_cases hr : r = .cmd
  · subst hr
    obtain ⟨t, ht⟩ := runCommand_next v { s with host := rest, cmd := v, response := .written }
    have hcmd : t.cmd = v := (runCommand_operandsKept ht).cmd
    refine ⟨t, (step_commandWrite h).trans ht, nofun, nofun, nofun, setWidth_half_reserved _, nofun, nofun, nofun,
      fun _ => ⟨hcmd, fun hmbz => ?_⟩⟩
    obtain ⟨e, he⟩ := decode_error_of_illegal (.inl hmbz)
    cases ht.symm.trans (runCommand_of_decode_error he _)
    rfl
  · refine ⟨_, step_registerWrite hr h, ?_, fun _ => Status.toWord_reserved _, ?_, setWidth_half_reserved _, ?_, ?_, ?_,
      fun hc => absurd hc hr⟩
    · rintro rfl
      exact Ctrl.toWord_ofWord v
    · rintro rfl
      exact setWidth_setWidth_eq_mask v 16 (by omega)
    all_goals
      rintro rfl
      rfl

end Sys2Proof.Machine

/-! SUPPORT. The laws of the checksum (40_crc.md): its wire bytes, linearity, the residue, single-bit sensitivity, the
polynomial remainder it is, and the proofs of the statements about it. -/

namespace Sys2Proof.Machine

/-! ### The wire bytes and back (R115, R116) -/

theorem append_bytes (hi lo : Byte) : (hi ++ lo : BitVec (8 + 8)) = (hi.setWidth 16 <<< 8) ||| lo.setWidth 16 :=
  BitVec.setWidth_eq (hi ++ lo) ▸ BitVec.setWidth_append_eq_shiftLeft_setWidth_or

/-- A checksum is its high byte followed by its low byte. -/
theorem half_bytes (c : Half) : (c.extractLsb' 8 8 ++ c.extractLsb' 0 8 : BitVec (8 + 8)) = c :=
  (BitVec.extractLsb'_append_extractLsb'_eq_extractLsb' (start₁ := 0) (len₁ := 8) rfl).trans BitVec.extractLsb'_eq_self

theorem crcFromWire_wireCrc (be : Bool) {c : Half} {b0 b1 : Byte} (h : wireCrc be c = [b0, b1]) :
    crcFromWire be b0 b1 = c := by
  cases be <;> cases h <;> exact half_bytes c

theorem wireCrc_injective (be : Bool) : Function.Injective (wireCrc be) := by
  intro c d h
  obtain ⟨b0, b1, hd⟩ := List.length_eq_two.mp (wireCrc_length be d)
  rw [← crcFromWire_wireCrc be (h.trans hd), crcFromWire_wireCrc be hd]

theorem wireCrc_crcFromWire (be : Bool) (b0 b1 : Byte) : wireCrc be (crcFromWire be b0 b1) = [b0, b1] := by
  have hhigh (hi lo : Byte) : (hi ++ lo : BitVec (8 + 8)).extractLsb' 8 8 = hi := BitVec.extractLsb'_append_eq_left
  have hlow (hi lo : Byte) : (hi ++ lo : BitVec (8 + 8)).extractLsb' 0 8 = lo := BitVec.extractLsb'_append_eq_right
  cases be
  · exact congrArg₂ (fun x y => [x, y]) (hlow b1 b0) (hhigh b1 b0)
  · exact congrArg₂ (fun x y => [x, y]) (hhigh b0 b1) (hlow b0 b1)

/-- Settles O44: the bytes by the definition, their concatenation as a sum, and `crcFromWire_wireCrc`. -/
theorem wireChecksumRoundTrips : Obligations.WireChecksumRoundTrips :=
  ⟨fun _ => ⟨rfl, rfl⟩, fun b0 b1 => ⟨append_bytes b1 b0, append_bytes b0 b1⟩, fun be _ _ _ => crcFromWire_wireCrc be⟩

/-! ### Linearity (R112) -/

/-- One shift: the polynomial is taken once when the top bit falls out. -/
theorem crcShift_eq (c : Half) :
    crcShift c = c <<< 1 ^^^ (if c.getLsbD 15 = true then Config.crcPoly else 0#16) := by
  rw [crcShift]
  split
  · rfl
  · rw [BitVec.xor_zero]

theorem crcShift_xor (a b : Half) : crcShift (a ^^^ b) = crcShift a ^^^ crcShift b := by
  have hpoly : (if (a ^^^ b).getLsbD 15 = true then Config.crcPoly else 0#16) =
      (if a.getLsbD 15 = true then Config.crcPoly else 0#16) ^^^
        (if b.getLsbD 15 = true then Config.crcPoly else 0#16) := by
    rw [BitVec.getLsbD_xor]
    cases a.getLsbD 15 <;> cases b.getLsbD 15 <;> rfl
  rw [crcShift_eq, crcShift_eq a, crcShift_eq b, hpoly, BitVec.shiftLeft_xor_distrib]
  ac_rfl

theorem crcShifts_xor (n : Nat) (a b : Half) : crcShifts n (a ^^^ b) = crcShifts n a ^^^ crcShifts n b := by
  induction n generalizing a b with
  | zero => rfl
  | succ n ih =>
    rw [crcShifts, crcShift_xor, ih]
    rfl

theorem crcByte_xor (c d : Half) (x y : Byte) : crcByte (c ^^^ d) (x ^^^ y) = crcByte c x ^^^ crcByte d y := by
  have harg : c ^^^ d ^^^ ((x ^^^ y).setWidth 16 <<< 8) =
      (c ^^^ x.setWidth 16 <<< 8) ^^^ (d ^^^ y.setWidth 16 <<< 8) := by
    rw [BitVec.setWidth_xor, BitVec.shiftLeft_xor_distrib]
    ac_rfl
  rw [crcByte, harg, crcShifts_xor]
  rfl

theorem foldl_crcByte_xor {m n : List Byte} (h : m.length = n.length) (c d : Half) :
    (List.zipWith (· ^^^ ·) m n).foldl crcByte (c ^^^ d) = m.foldl crcByte c ^^^ n.foldl crcByte d := by
  induction m generalizing n c d with
  | nil =>
    cases n with
    | nil => rfl
    | cons y n => cases h
  | cons x m ih =>
    cases n with
    | nil => cases h
    | cons y n =>
      rw [List.zipWith_cons_cons, List.foldl_cons, crcByte_xor, ih (Nat.succ.inj h)]
      rfl

/-- The register at zero stays there over a zero byte. -/
theorem crc16_cons_zero (m : List Byte) : crc16 (0x00#8 :: m) = crc16 m := by
  have hzero : crcByte 0#16 0x00#8 = 0#16 := by decide
  rw [crc16_eq, crc16_eq, List.foldl_cons, hzero]

/-- Settles O43: a leading zero by `crc16_cons_zero`, linearity by `foldl_crcByte_xor` from the register at zero, the others as
values. -/
theorem crcObeysItsLaws : Obligations.CrcObeysItsLaws := by
  refine ⟨crc16_nil, crc16_cons_zero, fun m1 m2 h => ?_, by decide +kernel⟩
  rw [crc16_eq, crc16_eq, crc16_eq]
  exact foldl_crcByte_xor h 0#16 0#16

/-! ### The residue (R117) -/

/-- While no set bit reaches the top, the shifts are a shift. -/
theorem crcShifts_eq_shiftLeft {n : Nat} {c : Half} (h : ∀ k, 16 ≤ k + n → c.getLsbD k = false) :
    crcShifts n c = c <<< n := by
  induction n generalizing c with
  | zero => exact (BitVec.shiftLeft_zero c).symm
  | succ n ih =>
    have htop : c.getLsbD 15 = false := h 15 (by omega)
    have hshift : crcShift c = c <<< 1 := by rw [crcShift, htop, if_neg Bool.false_ne_true]
    have hnext : ∀ k, 16 ≤ k + n → (c <<< 1).getLsbD k = false := by
      intro k hk
      rw [BitVec.getLsbD_shiftLeft]
      rcases Nat.eq_zero_or_pos k with rfl | hpos
      · simp
      · simp [h (k - 1) (by omega)]
    rw [crcShifts, hshift, ih hnext, ← BitVec.shiftLeft_add, Nat.add_comm]

/-- The first checksum byte clears the high half of the register, and the second the low half. -/
theorem crcByte_own_bytes (hi lo : Byte) : crcByte (crcByte (hi ++ lo : BitVec (8 + 8)) hi) lo = 0#16 := by
  have hlow : (hi ++ lo : BitVec (8 + 8)) ^^^ (hi.setWidth 16 <<< 8) = lo.setWidth 16 := by
    rw [append_bytes]
    ext k hk
    by_cases h8 : k < 8
    · simp [h8]
    · simp [h8, BitVec.getLsbD_of_ge lo k (by omega)]
  have hbyte : crcShifts 8 (lo.setWidth 16) = lo.setWidth 16 <<< 8 :=
    crcShifts_eq_shiftLeft fun k hk => by
      rw [BitVec.getLsbD_setWidth, BitVec.getLsbD_of_ge lo k (by omega), Bool.and_false]
  rw [crcByte, crcByte, hlow, hbyte, BitVec.xor_self]
  rfl

theorem crc16_own_bytes (h : List Byte) : crc16 (h ++ wireCrc true (crc16 h)) = 0#16 := by
  have hbytes := crcByte_own_bytes ((crc16 h).extractLsb' 8 8) ((crc16 h).extractLsb' 0 8)
  rw [half_bytes] at hbytes
  exact (crc16_append h _).trans hbytes

theorem crc16_nineDigits_lowFirst : crc16 (nineDigits ++ wireCrc false (crc16 nineDigits)) = 0x40FC#16 := by decide +kernel

/-- Settles O45: the checksum's own bytes, high byte first, by `crc16_own_bytes`, and the value for the other order. -/
theorem bigEndianResidueIsZero : Obligations.BigEndianResidueIsZero :=
  ⟨crc16_own_bytes, crc16_nineDigits_lowFirst⟩

/-! ### Single-bit sensitivity (R118) -/

/-- The polynomial has the constant term 1, so a shift loses nothing. -/
theorem crcShift_eq_zero {c : Half} (h : crcShift c = 0#16) : c = 0#16 := by
  have hbits (k : Nat) : (crcShift c).getLsbD k = false := by rw [h, BitVec.getLsbD_zero]
  have htop : c.getLsbD 15 = false := by
    have h0 := hbits 0
    rw [crcShift_eq] at h0
    cases ht : c.getLsbD 15 with
    | false => rfl
    | true => simp [ht, Config.crcPoly] at h0
  rw [crcShift, htop, if_neg Bool.false_ne_true] at hbits
  refine BitVec.eq_of_getLsbD_eq fun k hk => ?_
  rw [BitVec.getLsbD_zero]
  rcases Nat.eq_or_lt_of_le (Nat.le_of_lt_succ hk) with rfl | hlt
  · exact htop
  · have hnext := hbits (k + 1)
    rwa [BitVec.getLsbD_shiftLeft, Nat.add_sub_cancel, decide_eq_true (show k + 1 < 16 by omega),
      decide_eq_false (show ¬ k + 1 < 1 by omega)] at hnext

theorem crcShift_injective : Function.Injective crcShift := fun a b h =>
  BitVec.xor_eq_zero_iff.mp (crcShift_eq_zero (by rw [crcShift_xor, h, BitVec.xor_self]))

theorem crcShifts_injective (n : Nat) : Function.Injective (crcShifts n) := by
  induction n with
  | zero => exact Function.injective_id
  | succ n ih => exact ih.comp crcShift_injective

theorem crcByte_injective (b : Byte) : Function.Injective (crcByte · b) := fun _ _ h =>
  (BitVec.xor_left_inj _).mp (crcShifts_injective 8 h)

/-- A different byte at one place leaves a different register. -/
theorem crcByte_ne {x y : Byte} (c : Half) (h : x ≠ y) : crcByte c x ≠ crcByte c y := by
  refine fun heq => h ?_
  have hshift : x.setWidth 16 <<< 8 = y.setWidth 16 <<< 8 := (BitVec.xor_right_inj _).mp (crcShifts_injective 8 heq)
  ext k hk
  have hbit := congrArg (BitVec.getLsbD · (k + 8)) hshift
  simpa [BitVec.getLsbD_shiftLeft, show k + 8 < 16 by omega, show k < 16 by omega, BitVec.getLsbD_eq_getElem hk] using hbit

theorem foldl_crcByte_injective (m : List Byte) : Function.Injective (m.foldl crcByte) := by
  induction m with
  | nil => exact Function.injective_id
  | cons b m ih => exact ih.comp (crcByte_injective b)

/-- Messages that differ in exactly one byte have different checksums. -/
theorem crc16_set_ne {h : List Byte} {k : Nat} {x : Byte} (hk : k < h.length) (hx : x ≠ h[k]) :
    crc16 (h.set k x) ≠ crc16 h := by
  have hself : crc16 h = crc16 (h.take k ++ h[k] :: h.drop (k + 1)) := congrArg crc16 (by simp)
  have hset : h.set k x = h.take k ++ x :: h.drop (k + 1) := List.set_eq_take_append_cons_drop.trans (if_pos hk)
  rw [hset, hself, crc16_append, crc16_append, List.foldl_cons, List.foldl_cons]
  exact (foldl_crcByte_injective _).ne (crcByte_ne _ hx)

/-- The checksum test on a frame, as the checksum bytes it should end in (43_framer.md R181). -/
theorem checksumMatches_append (be : Bool) (h : List Byte) {w : List Byte} (hw : w.length = 2) :
    checksumMatches be (h ++ w) = true ↔ w = wireCrc be (crc16 h) := by
  match w, hw with
  | [b0, b1], _ =>
    have hlen : (h ++ [b0, b1]).length = h.length + 2 := by simp
    have htest : checksumMatches be (h ++ [b0, b1]) = decide (crc16 h = crcFromWire be b0 b1) := by
      simp [checksumMatches, hlen]
    rw [htest, decide_eq_true_eq]
    refine ⟨fun hc => ?_, fun hw => (crcFromWire_wireCrc be hw.symm).symm⟩
    rw [hc, wireCrc_crcFromWire]

/-- A stuffed frame that ends in other bytes than its checksum fails (43_framer.md R181). -/
theorem verify_stuff_eq_none {be : Bool} {h w : List Byte} (hw : w.length = 2) (hne : w ≠ wireCrc be (crc16 h)) :
    verify be (stuff (h ++ w)) = none := by
  refine Option.eq_none_iff_forall_ne_some.mpr fun f hf => ?_
  obtain ⟨hun, -, hmatch⟩ := verify_some.mp hf
  rw [unstuff_stuff] at hun
  cases hun
  exact hne ((checksumMatches_append be h hw).mp hmatch)

/-- Settles O46: one flipped bit is one different byte (`crc16_set_ne`), and the stuffed frame with the old checksum fails the
test (`verify_stuff_eq_none`). -/
theorem oneFlippedBitIsDetected : Obligations.OneFlippedBitIsDetected := by
  intro h k b be hk hb
  have hflip : h.getD k 0#8 ^^^ (1#8 <<< b) ≠ h[k] := by
    rw [List.getD_eq_getElem _ _ hk]
    intro heq
    have hbit := congrArg (BitVec.getLsbD · b) heq
    simp [hb] at hbit
  have hcrc := crc16_set_ne hk hflip
  exact ⟨hcrc, verify_stuff_eq_none (wireCrc_length be _) fun hw => hcrc (wireCrc_injective be hw.symm)⟩

end Sys2Proof.Machine

/-! SUPPORT. The checksum as a remainder over GF(2) (40_crc.md R110): the polynomials of words and of the generator, one shift
and one byte modulo the generator, and the proof of the statement about the remainder. -/

namespace Sys2Proof.Machine

open Polynomial

/-! ### The polynomial of a word -/

theorem bitsPoly_coeff {n : Nat} (b : BitVec n) (k : Nat) :
    (bitsPoly b).coeff k = if b.getLsbD k = true then 1 else 0 := by
  have hterm (i : Nat) : (if b.getLsbD i = true then (X : (ZMod 2)[X]) ^ i else 0).coeff k =
      if k = i then (if b.getLsbD i = true then 1 else 0) else 0 := by
    split <;> simp [coeff_X_pow]
  rw [bitsPoly, finsetSum_coeff, Finset.sum_congr rfl fun i _ => hterm i, Finset.sum_ite_eq]
  split
  · rfl
  · next hk => rw [BitVec.getLsbD_of_ge b k (by simpa using hk)]; rfl

theorem bitsPoly_zero (n : Nat) : bitsPoly (0#n) = 0 := by
  ext k
  rw [bitsPoly_coeff, BitVec.getLsbD_zero]
  rfl

/-- XOR of words is the sum of their polynomials. -/
theorem bitsPoly_xor {n : Nat} (a b : BitVec n) : bitsPoly (a ^^^ b) = bitsPoly a + bitsPoly b := by
  ext k
  rw [coeff_add, bitsPoly_coeff, bitsPoly_coeff, bitsPoly_coeff, BitVec.getLsbD_xor]
  cases a.getLsbD k <;> cases b.getLsbD k <;> decide

/-- Widening and shifting a byte to the top of the register multiplies its polynomial by x^8. -/
theorem bitsPoly_byte_shift (b : Byte) : bitsPoly (b.setWidth 16 <<< 8) = bitsPoly b * X ^ 8 := by
  ext k
  rw [coeff_mul_X_pow', bitsPoly_coeff, BitVec.getLsbD_shiftLeft, BitVec.getLsbD_setWidth]
  by_cases h8 : 8 ≤ k
  · rw [if_pos h8, bitsPoly_coeff]
    by_cases h16 : k < 16
    · have h : k - 8 < 16 := by omega
      simp [h16, h, Nat.not_lt.mpr h8]
    · rw [BitVec.getLsbD_of_ge b (k - 8) (by omega)]
      simp
  · rw [if_neg h8]
    simp [Nat.lt_of_not_le h8]

/-- A shift multiplies by x, and what falls out of the register is its top bit at x^16. -/
theorem bitsPoly_shiftLeft_one (c : Half) :
    bitsPoly (c <<< 1) + (if c.getLsbD 15 = true then X ^ 16 else 0) = bitsPoly c * X := by
  ext k
  cases k with
  | zero =>
    have h0 : (if c.getLsbD 15 = true then (X : (ZMod 2)[X]) ^ 16 else 0).coeff 0 = 0 := by split <;> simp
    rw [coeff_add, h0, bitsPoly_coeff, mul_coeff_zero, coeff_X_zero]
    simp
  | succ k =>
    have htop : (if c.getLsbD 15 = true then (X : (ZMod 2)[X]) ^ 16 else 0).coeff (k + 1) =
        if k = 15 then (if c.getLsbD 15 = true then 1 else 0) else 0 := by
      split <;> simp [coeff_X_pow]
    rw [coeff_add, htop, bitsPoly_coeff, coeff_mul_X, bitsPoly_coeff, BitVec.getLsbD_shiftLeft, Nat.add_sub_cancel]
    rcases Nat.lt_trichotomy k 15 with hlt | rfl | hgt
    · simp [show k + 1 < 16 by omega, Nat.ne_of_lt hlt]
    · simp
    · simp [Nat.ne_of_gt hgt, BitVec.getLsbD_of_ge c k hgt]

theorem bitsPoly_crcPoly : bitsPoly Config.crcPoly + X ^ 16 = crcGenerator := by
  have hbits : ∀ k < 16, Config.crcPoly.getLsbD k = decide (k ∈ [0, 1, 3, 4, 6, 8, 10, 12, 13, 14]) := by decide
  rw [bitsPoly, Finset.sum_congr rfl fun k hk => by rw [hbits k (Finset.mem_range.mp hk)]]
  have hsum : ∑ k ∈ Finset.range 16, (if decide (k ∈ [0, 1, 3, 4, 6, 8, 10, 12, 13, 14]) = true then
      (X : (ZMod 2)[X]) ^ k else 0) = 1 + X + X ^ 3 + X ^ 4 + X ^ 6 + X ^ 8 + X ^ 10 + X ^ 12 + X ^ 13 + X ^ 14 := by
    simp [Finset.sum_range_succ]
  rw [hsum, crcGenerator]
  ring

theorem crcGenerator_monic : crcGenerator.Monic := by
  unfold crcGenerator
  monicity!

theorem crcGenerator_degree : crcGenerator.degree = 16 := by
  unfold crcGenerator
  compute_degree!

theorem bitsPoly_degree_lt (c : Half) : (bitsPoly c).degree < crcGenerator.degree := by
  rw [crcGenerator_degree]
  refine (degree_lt_iff_coeff_zero _ 16).mpr fun k hk => ?_
  rw [bitsPoly_coeff, BitVec.getLsbD_of_ge c k hk]
  rfl

/-! ### The register modulo the generator -/

/-- One shift multiplies by x modulo G. -/
theorem mk_crcShift (c : Half) : AdjoinRoot.mk crcGenerator (bitsPoly (crcShift c)) =
    AdjoinRoot.mk crcGenerator (bitsPoly c * X) := by
  rw [← bitsPoly_shiftLeft_one, crcShift_eq, bitsPoly_xor, map_add, map_add]
  congr 1
  split
  · rw [AdjoinRoot.mk_eq_mk, CharTwo.sub_eq_add, bitsPoly_crcPoly]
  · rw [bitsPoly_zero]

theorem mk_crcShifts (n : Nat) (c : Half) : AdjoinRoot.mk crcGenerator (bitsPoly (crcShifts n c)) =
    AdjoinRoot.mk crcGenerator (bitsPoly c * X ^ n) := by
  induction n generalizing c with
  | zero => rw [crcShifts, pow_zero, mul_one]
  | succ n ih => rw [crcShifts, ih, map_mul, mk_crcShift, ← map_mul, mul_assoc, ← pow_succ']

/-- One byte of the message, at the power that the register's top has. -/
theorem mk_crcByte (c : Half) (b : Byte) : AdjoinRoot.mk crcGenerator (bitsPoly (crcByte c b)) =
    AdjoinRoot.mk crcGenerator (bitsPoly c * X ^ 8 + bitsPoly b * X ^ 16) := by
  rw [crcByte, mk_crcShifts, bitsPoly_xor, bitsPoly_byte_shift, add_mul, mul_assoc (bitsPoly b), ← pow_add]

/-- The register holds M(x) · x^16 modulo G after every byte. -/
theorem mk_foldl_crcByte (m : List Byte) {c : Half} {p : (ZMod 2)[X]}
    (h : AdjoinRoot.mk crcGenerator (bitsPoly c) = AdjoinRoot.mk crcGenerator (p * X ^ 16)) :
    AdjoinRoot.mk crcGenerator (bitsPoly (m.foldl crcByte c)) =
      AdjoinRoot.mk crcGenerator (m.foldl (fun p b => p * X ^ 8 + bitsPoly b) p * X ^ 16) := by
  induction m generalizing c p with
  | nil => exact h
  | cons b m ih =>
    refine ih ?_
    rw [mk_crcByte, map_add, map_mul, h, ← map_mul, ← map_add]
    congr 1
    ring

/-- Settles O42: the two polynomials are equal modulo G (`mk_foldl_crcByte`), and the register's is its own remainder. -/
theorem crcIsThePolynomialRemainder : Obligations.CrcIsThePolynomialRemainder := by
  intro m
  have hmod : AdjoinRoot.mk crcGenerator (bitsPoly (crc16 m)) = AdjoinRoot.mk crcGenerator (messagePoly m * X ^ 16) := by
    rw [crc16_eq]
    exact mk_foldl_crcByte m (by rw [bitsPoly_zero, zero_mul])
  rw [← modByMonic_eq_of_dvd_sub crcGenerator_monic (AdjoinRoot.mk_eq_mk.mp hmod)]
  exact ((modByMonic_eq_self_iff crcGenerator_monic).mpr (bitsPoly_degree_lt _)).symm

end Sys2Proof.Machine

/-! SUPPORT. Streams of stuffed frames at the framer (43_framer.md R201, R204): what Verify says of a stuffed frame, one unit taken
from the front of the region, and the proofs of the statements about units, one transmission and a run of 0x01. -/

namespace Sys2Proof.Machine

/-! ### Verify on a stuffed frame (R181) -/

theorem GoodFrame.length_ge {be : Bool} {f : List Byte} (h : GoodFrame be f) : 10 ≤ f.length := by
  obtain ⟨m, hlen, rfl⟩ := h
  have hlen' : 8 ≤ m.length := hlen
  rw [List.length_append, wireCrc_length]
  omega

theorem GoodFrame.verify_stuff {be : Bool} {f : List Byte} (h : GoodFrame be f) : verify be (stuff f) = some f := by
  refine verify_some.mpr ⟨unstuff_stuff f, h.length_ge, ?_⟩
  obtain ⟨m, -, rfl⟩ := h
  exact (checksumMatches_append be m (wireCrc_length be _)).mpr rfl

theorem BadFrame.verify_stuff {be : Bool} {f : List Byte} (h : BadFrame be f) : verify be (stuff f) = none := by
  obtain ⟨m, w, -, hw, hne, rfl⟩ := h
  exact verify_stuff_eq_none hw hne

theorem BadFrame.length_ge {be : Bool} {f : List Byte} (h : BadFrame be f) : 10 ≤ f.length := by
  obtain ⟨m, w, hlen, hw, -, rfl⟩ := h
  have hlen' : 8 ≤ m.length := hlen
  rw [List.length_append]
  omega

/-! ### One unit at the front of the region -/

section Units

variable {s : State} {f rest : List Byte}

/-- A good unit at the front is taken whole (R193). -/
theorem exec_fbExtract_goodUnit (hinv : s.Inv) (hgood : GoodFrame s.ctrl.crcBe f)
    (hu : s.unconsumed = stuff f ++ 0x00#8 :: rest) :
    ∃ t, exec .fbExtract s = .next t ∧ Finished s t .ok ∧ OutIs s t f ∧ t.unconsumed = rest := by
  have hlen : 10 ≤ (stuff f).length := Nat.le_trans hgood.length_ge (Nat.le_of_lt (lt_stuff_length f))
  obtain ⟨t, hexec, hfin, hout, hrest, -⟩ :=
    extractTakesTheLeadingSpan s _ rest f hinv hu (delim_not_mem_stuff f) hlen hgood.verify_stuff
  exact ⟨t, hexec, hfin, hout, hrest⟩

/-- A good unit after a delimiter and a span that is no frame is taken too (R194). -/
theorem exec_fbExtract_goodCandidate {span : List Byte} (hinv : s.Inv) (hgood : GoodFrame s.ctrl.crcBe f)
    (hu : s.unconsumed = span ++ 0x00#8 :: (stuff f ++ 0x00#8 :: rest)) (hspan : 0x00#8 ∉ span)
    (hlead : span.length < 10 ∨ verify s.ctrl.crcBe span = none) :
    ∃ t, exec .fbExtract s = .next t ∧ Finished s t .ok ∧ OutIs s t f ∧ t.unconsumed = rest := by
  have hlong : 10 ≤ s.unconsumed.length := by
    have := hgood.length_ge
    have := lt_stuff_length f
    rw [hu, List.length_append, List.length_cons, List.length_append]
    omega
  exact (extractTriesTheDelimitedCandidate s span _ rest hinv hu hspan (delim_not_mem_stuff f) hlong hlead).1 f
    hgood.verify_stuff

/-- With nothing left FB_EXTRACT returns NONE (R190). -/
theorem exec_fbExtract_drained (hinv : s.Inv) (hu : s.unconsumed = []) :
    ∃ t, exec .fbExtract s = .next t ∧ t.status.result = .none := by
  obtain ⟨t, hexec, hfin, -⟩ := (extractWaitsOrDiscards s hinv).1 (by simp [hu])
  exact ⟨t, hexec, hfin.result⟩

/-- A bad unit alone is no frame, and its delimiter stays (R195). -/
theorem exec_fbExtract_badUnit (hinv : s.Inv) (hbad : BadFrame s.ctrl.crcBe f) (hu : s.unconsumed = stuff f ++ [0x00#8]) :
    ∃ t, exec .fbExtract s = .next t ∧ t.status.result = .none ∧ t.unconsumed = [0x00#8] := by
  have hlong : 10 ≤ s.unconsumed.length := by
    have := hbad.length_ge
    have := lt_stuff_length f
    rw [hu, List.length_append]
    omega
  obtain ⟨t, hexec, hfin, hrest⟩ := (extractTriesTheUnterminatedTail s _ [] hinv hu (delim_not_mem_stuff f) (by simp) hlong
    (.inr hbad.verify_stuff)).2 (.inl (by simp))
  exact ⟨t, hexec, hfin.result, hrest⟩

end Units

/-! ### The statements about streams -/

/-- Settles O57: the first unit by `exec_fbExtract_goodUnit`, or the second behind a bad one by `exec_fbExtract_goodCandidate`;
the invariant and CTRL are kept between the commands. -/
theorem unitsSharingADelimiterAreExtracted : Obligations.UnitsSharingADelimiterAreExtracted := by
  intro s f1 f2 hinv hu
  refine ⟨fun h1 h2 => ?_, fun h1 h2 => ?_, fun h1 h2 => ?_⟩
  · obtain ⟨t, ht, hfin, hout, hleft⟩ := exec_fbExtract_goodUnit hinv h1 hu
    rw [← (exec_operandsKept ht).ctrl] at h2
    obtain ⟨u, hu', hfin', hout', hleft'⟩ := exec_fbExtract_goodUnit (exec_keeps_inv hinv ht) h2 hleft
    obtain ⟨w, hw, hnone⟩ := exec_fbExtract_drained (exec_keeps_inv (exec_keeps_inv hinv ht) hu') hleft'
    exact ⟨t, u, w, ht, hfin.result, hout, hu', hfin'.result, hout', hw, hnone⟩
  · obtain ⟨t, ht, hfin, hout, hleft⟩ :=
      exec_fbExtract_goodCandidate hinv h2 hu (delim_not_mem_stuff f1) (.inr h1.verify_stuff)
    obtain ⟨u, hu', hnone⟩ := exec_fbExtract_drained (exec_keeps_inv hinv ht) hleft
    exact ⟨t, u, ht, hfin.result, hout, hu', hnone⟩
  · obtain ⟨t, ht, hfin, hout, hleft⟩ := exec_fbExtract_goodUnit hinv h1 hu
    rw [← (exec_operandsKept ht).ctrl] at h2
    obtain ⟨u, hu', hnone, hdelim⟩ := exec_fbExtract_badUnit (exec_keeps_inv hinv ht) h2 hleft
    exact ⟨t, u, ht, hfin.result, hout, hu', hnone, hdelim⟩

/-- When nothing is left, RES0 is the number of bytes that were held (R192). -/
theorem fbExtract_res0_of_drained {s t : State} (hinv : s.Inv) (h : exec .fbExtract s = .next t) (hu : t.unconsumed = []) :
    t.res0 = s.readReg .fbLen := by
  obtain ⟨t', ht', hr⟩ := exec_fbExtract_reports hinv
  cases h.symm.trans ht'
  obtain ⟨-, hle, -⟩ := State.extract_within hinv.cursorLe
  have hleft : s.fbWr - s.extract.cursor = 0 := by
    rw [← storeSpan_length s.fbStore, ← hr.unconsumed, hu, List.length_nil]
  have hend : s.extract.cursor = s.fbWr := by omega
  rw [hr.results.res0, hend]
  rfl

/-- Settles O58: the unit at the front, or behind a leading delimiter, is taken, and nothing is left. -/
theorem oneTransmissionIsExtracted : Obligations.OneTransmissionIsExtracted := by
  intro s lead f hinv hgood hu
  obtain ⟨t, ht, hfin, hout, hleft⟩ :
      ∃ t, exec .fbExtract s = .next t ∧ Finished s t .ok ∧ OutIs s t f ∧ t.unconsumed = [] := by
    cases lead with
    | false => exact exec_fbExtract_goodUnit hinv hgood hu
    | true => exact exec_fbExtract_goodCandidate (span := []) hinv hgood hu (by simp) (.inl (by simp))
  exact ⟨t, ht, hfin, hout, hleft, fbExtract_res0_of_drained hinv ht hleft⟩

/-! ### A run of 0x01 (R204) -/

/-- Zero bytes are stuffed as empty blocks. -/
theorem stuff_zeros (n : Nat) : stuff (List.replicate n 0x00#8) = List.replicate (n + 1) 0x01#8 := by
  induction n with
  | zero => rfl
  | succ n ih =>
    have hblock : stuff (0x00#8 :: List.replicate n 0x00#8) = 0x01#8 :: stuff (List.replicate n 0x00#8) :=
      stuffFrom_delim [] _
    rw [List.replicate_succ, hblock, ih, ← List.replicate_succ]

theorem crc16_zeros (n : Nat) : crc16 (List.replicate n 0x00#8) = 0#16 := by
  induction n with
  | zero => rfl
  | succ n ih => rw [List.replicate_succ, crc16_cons_zero, ih]

/-- Ten zero bytes or more are a frame with a right checksum. -/
theorem goodFrame_zeros (be : Bool) {n : Nat} (h : 10 ≤ n) : GoodFrame be (List.replicate n 0x00#8) := by
  have hcrc : wireCrc be 0#16 = List.replicate 2 0x00#8 := by cases be <;> decide
  refine ⟨List.replicate (n - 2) 0x00#8, ?_, ?_⟩
  · show 8 ≤ _
    rw [List.length_replicate]
    omega
  · rw [crc16_zeros, hcrc, List.replicate_append_replicate, Nat.sub_add_cancel (by omega)]

/-- Settles O59: the run is the stuffing of zero bytes (`stuff_zeros`), which are a frame with a right checksum
(`goodFrame_zeros`) of the wrong version. -/
theorem runOfOnesVerifiesByCoincidence : Obligations.RunOfOnesVerifiesByCoincidence := by
  intro s m hinv hm hu
  obtain ⟨n, rfl⟩ : ∃ n, m = n + 1 := ⟨m - 1, by omega⟩
  rw [Nat.add_sub_cancel]
  have hunit : s.unconsumed = transmissionBytes true (List.replicate n 0x00#8) := by
    rw [hu, transmissionBytes_lead, stuff_zeros]
    rfl
  obtain ⟨t, ht, hfin, hout, -⟩ := oneTransmissionIsExtracted s true _ hinv (goodFrame_zeros _ (by omega)) hunit
  refine ⟨⟨t, ht, hfin, hout⟩, decodeFrame_version (by simp; omega) ?_⟩
  obtain ⟨k, rfl⟩ : ∃ k, n = k + 1 := ⟨n - 1, by omega⟩
  exact (by decide : (0x00#8 : Byte) ≠ 0x01#8)

end Sys2Proof.Machine

/-! SUPPORT. The script line out2in (30_encoding.md R101): one access of a script, the copy of one byte and of several, and the
proof of the statement about the line. -/

namespace Sys2Proof.Machine

/-! ### The accesses of the line are legal (20_memory.md R61 to R64) -/

theorem checkAddress_outByte_one {p : Params} (hp : p.wf = true) {k : Nat} (hk : k < p.outCap) :
    checkAddress p (p.base + Config.outBase + k) 1 = .ok (.outByte k) := by
  obtain ⟨-, -, -, hin, -⟩ := Params.wf_bounds hp
  rw [Nat.add_assoc]
  refine checkAddress_outByte hp ⟨fun j hj => ?_, fun hreg => ?_, fun _ => .inl rfl⟩
  · rw [locate_outByte hin (by omega) (by omega)]
    exact nofun
  · omega

theorem checkAddress_inByte_one {p : Params} (hp : p.wf = true) {k : Nat} (hk : k < p.inCap) :
    checkAddress p (p.base + Config.inBase + k) 1 = .ok (.inByte k) := by
  rw [Nat.add_assoc]
  refine checkAddress_inByte hp hk ⟨fun j hj => ?_, fun hreg => ?_, fun _ => .inl rfl⟩
  · rw [locate_inByte (by omega) (by omega)]
    exact nofun
  · omega

/-! ### One access of a script (R100) -/

/-- The host is at `h'` after a number of accesses from `h`: the engine is `s`, and the script has not moved on. -/
structure ScriptState.Reaches (h h' : ScriptState) (accesses : Nat) (s : State) : Prop where
  engine : h'.engine = s
  status : h'.status = h.status
  pos : h'.pos = h.pos
  issued : h'.issued.length = h.issued.length + accesses

section Accesses

variable {h h1 h2 : ScriptState} {m n : Nat} {s t : State}

theorem ScriptState.Reaches.trans (h12 : h.Reaches h1 m s) (h23 : h1.Reaches h2 n t) : h.Reaches h2 (m + n) t := by
  obtain ⟨-, hst, hpos, hlen⟩ := h12
  obtain ⟨heng, hst', hpos', hlen'⟩ := h23
  exact ⟨heng, hst'.trans hst, hpos'.trans hpos, by omega⟩

@[simp] theorem ScriptState.lookup_assign (h : ScriptState) (x : HostVar) (v : Word) : (h.assign x v).lookup x = some v := by
  simp [ScriptState.lookup, ScriptState.assign]

/-- A script's read ends with the value in its host variable. -/
theorem ScriptState.issue_read {addr : Nat} {l : Location} (hl : checkAddress h.engine.params addr n = .ok l)
    (x : HostVar) : ∃ h1, h.issue (.read addr n) = .next h1 ∧
      (h1.takeData x).lookup x = some (h.engine.readLocation l n) ∧
      h.Reaches (h1.takeData x) 1 { h.engine with response := .data (h.engine.readLocation l n) } := by
  have hperform : perform (.read addr n) h.engine =
      .next { h.engine with response := .data (h.engine.readLocation l n) } := by simp only [perform, hostRead, hl]
  refine ⟨{ h with
    engine := { h.engine with response := .data (h.engine.readLocation l n) },
    issued := h.issued ++ [.read addr n] }, ?_, ?_, ⟨rfl, rfl, rfl, List.length_append⟩⟩
  · rw [ScriptState.issue, hperform]
    rfl
  · exact ScriptState.lookup_assign _ x _

/-- A script's write that is not to CMD stores. -/
theorem ScriptState.issue_write {addr : Nat} {l : Location} (hl : checkAddress h.engine.params addr n = .ok l)
    (hc : l ≠ .register .cmd) (v : Word) : ∃ h1, h.issue (.write addr n v) = .next h1 ∧
      h.Reaches h1 1 (({ h.engine with response := .written } : State).writeLocation l n v) := by
  have hperform : perform (.write addr n v) h.engine =
      .next (({ h.engine with response := .written } : State).writeLocation l n v) := by
    simp only [perform, hostWrite, hl, commitWrite, if_neg hc]
  refine ⟨{ h with
    engine := ({ h.engine with response := .written } : State).writeLocation l n v,
    issued := h.issued ++ [.write addr n v] }, ?_, ⟨rfl, rfl, rfl, List.length_append⟩⟩
  rw [ScriptState.issue, hperform]
  rfl

end Accesses

/-! ### The copy (R101) -/

/-- A byte read and written again is that byte. -/
theorem bytesOfWord_wordOfBytes_one (b : Byte) : bytesOfWord 1 (wordOfBytes [b]) = [b] := by
  simp [bytesOfWord, wordOfBytes]

/-- The engine after `n` bytes of OUT_BUF from index `k` on are copied to IN_BUF, whatever its port answered last. -/
def State.copied (s : State) (k n : Nat) (response : Response) : State :=
  { s with inBuf := Memory.writeBytes s.inBuf k (Memory.slice s.outBuf k n), response := response }

/-- Copying one byte and then the bytes after it. -/
theorem State.copied_succ (s : State) (k n : Nat) (r r' : Response) :
    (s.copied k 1 r).copied (k + 1) n r' = s.copied k (n + 1) r' := rfl

/-- One pass of the loop takes one read and one write. -/
theorem ScriptState.copyBytes_pass {k : Nat} {h : ScriptState} (hp : h.engine.params.wf = true)
    (hin : k < h.engine.params.inCap) (hout : k < h.engine.params.outCap) :
    ∃ h', (∀ n, h.copyBytes k (n + 1) = h'.copyBytes (k + 1) n) ∧ h.Reaches h' 2 (h.engine.copied k 1 .written) := by
  obtain ⟨h1, hread, hbyte, hr1⟩ := h.issue_read (checkAddress_outByte_one hp hout) .t
  have hparams : (h1.takeData .t).engine.params = h.engine.params := by rw [hr1.engine]
  have hl : checkAddress (h1.takeData .t).engine.params ((h1.takeData .t).engine.params.base + Config.inBase + k) 1 =
      .ok (.inByte k) := by
    rw [hparams]
    exact checkAddress_inByte_one hp hin
  obtain ⟨h2, hwrite, hr2⟩ :=
    ScriptState.issue_write hl nofun (h.engine.readLocation (.outByte k) 1)
  refine ⟨h2, fun n => ?_, ?_⟩
  · rw [ScriptState.copyBytes, rd8Access, hread]
    simp only [andThen, hbyte, wr8Access, hwrite]
  · have hbytes : bytesOfWord 1 (h.engine.readLocation (.outByte k) 1) = Memory.slice h.engine.outBuf k 1 :=
      bytesOfWord_wordOfBytes_one _
    have hr := hr1.trans hr2
    rw [hr1.engine, State.writeLocation, hbytes] at hr
    exact hr

/-- The loop copies its bytes with two accesses for each. -/
theorem ScriptState.copyBytes_next {n k : Nat} {h : ScriptState} (hp : h.engine.params.wf = true)
    (hin : k + n ≤ h.engine.params.inCap) (hout : k + n ≤ h.engine.params.outCap) :
    ∃ h' response, h.copyBytes k n = .next h' ∧ h.Reaches h' (2 * n) (h.engine.copied k n response) := by
  induction n generalizing k h with
  | zero => exact ⟨h, h.engine.response, rfl, rfl, rfl, rfl, rfl⟩
  | succ n ih =>
    obtain ⟨h1, hpass, hr1⟩ := ScriptState.copyBytes_pass (k := k) hp (by omega) (by omega)
    have hparams : h1.engine.params = h.engine.params := by
      rw [hr1.engine]
      rfl
    rw [← hparams] at hp hin hout
    obtain ⟨h2, response, hcopy, hr2⟩ := ih (k := k + 1) hp (by omega) (by omega)
    refine ⟨h2, response, (hpass n).trans hcopy, ?_⟩
    rw [hr1.engine, State.copied_succ] at hr2
    exact Nat.mul_succ 2 n ▸ Nat.add_comm 2 (2 * n) ▸ hr1.trans hr2

/-- The length that out2in reads of OUT_LEN and writes to IN_LEN. -/
theorem State.readLocation_outLen (s : State) : (s.readLocation (.register .outLen) 4).toNat = s.outLen.toNat ∧
    (s.readLocation (.register .outLen) 4).setWidth 16 = s.outLen := by
  have hword : s.readLocation (.register .outLen) 4 = s.outLen.setWidth 32 := rfl
  rw [hword, BitVec.toNat_setWidth_of_le (by decide), BitVec.setWidth_setWidth_of_le _ (by decide), BitVec.setWidth_eq]
  exact ⟨rfl, rfl⟩

/-- The line reads OUT_LEN, copies that many bytes (`ScriptState.copyBytes_next`), and writes IN_LEN. -/
theorem ScriptState.outToIn_next {h : ScriptState} (hinv : h.engine.Inv)
    (hfits : h.engine.outLen.toNat ≤ h.engine.params.inCap) :
    ∃ h', h.outToIn = .next h' ∧ h.Reaches h' (2 * h.engine.outLen.toNat + 2)
      { h.engine.copied 0 h.engine.outLen.toNat .written with inLen := h.engine.outLen } := by
  obtain ⟨hnum, hhalf⟩ := h.engine.readLocation_outLen
  obtain ⟨h1, hread, hlen, hr1⟩ := ScriptState.issue_read (checkAddress_reg h.engine.params .outLen) .n
  obtain ⟨h2, response, hcopy, hr2⟩ := ScriptState.copyBytes_next (k := 0) (n := h.engine.outLen.toNat)
    (h := h1.takeData .n) (by rw [hr1.engine]; exact hinv.paramsLegal) (by rw [hr1.engine]; simpa using hfits)
    (by rw [hr1.engine]; simpa using hinv.outLenFits)
  obtain ⟨h3, hwrite, hr3⟩ := ScriptState.issue_write (checkAddress_reg h2.engine.params .inLen) nofun
    (h.engine.readLocation (.register .outLen) 4)
  have hr := hr1.trans (hr2.trans hr3)
  rw [hr2.engine, hr1.engine, State.writeLocation, State.writeReg, hhalf] at hr
  refine ⟨h3, ?_, hr.engine, hr.status, hr.pos, by rw [hr.issued]; omega⟩
  rw [ScriptState.outToIn, rd32Access, hread]
  simp only [andThen, hlen, hnum, hcopy, wr32Access, hwrite]

/-- Settles O60: what the line leaves in the engine (`ScriptState.outToIn_next`), read back byte by byte. -/
theorem outToInCopiesTheResult : Obligations.OutToInCopiesTheResult := by
  intro h hinv hfits
  obtain ⟨h', hline, hengine, hstatus, hpos, hissued⟩ := ScriptState.outToIn_next hinv hfits
  have hslice := Memory.slice_writeBytes_same hinv.inCanonical 0 (Memory.slice h.engine.outBuf 0 h.engine.outLen.toNat)
  rw [Memory.slice_length] at hslice
  refine ⟨h', hline, hstatus, hpos, hissued, ?_⟩
  rw [hengine]
  refine ⟨rfl, hslice, fun a ha => ?_⟩
  exact (Memory.read_writeBytes hinv.inCanonical 0 _ a).trans (if_neg (by rw [Memory.slice_length]; omega))

end Sys2Proof.Machine
